-- ==== Sys2Proof/Config.lean ====
section
/-! DEFINITION. What an implementation fixes: the parameter W (spec/00_scope.md R6) and PLAINTEXT_MAX (R7). -/

namespace Sys2Proof

/-- The least `W` (R6). -/
def Config.minWidth : Nat := 8

/-- The greatest `W` (R6). -/
def Config.maxWidth : Nat := 65535

/-- The `W` of the one RRU that `State.reset` stands for: the width spec/95_test_vectors.md works its vectors at.
DESIGN CHOICE (log entry 6), unsafe: `W` is a parameter of the spec. No meaning reads this constant; every meaning takes
the width from the state, and `State.resetAt w` is the reset state of a unit of any width. -/
def Config.width : Nat := 16

/-- `PLAINTEXT_MAX`, fixed by R7. -/
def Config.plaintextMax : Nat := 26

end Sys2Proof
end

