-- ==== Sys2Proof/Word.lean ====
section
/-! DEFINITION. Bits and widths, as spec/00_scope.md rules R11 and R12 use them. -/

namespace Sys2Proof

/-- A bit vector together with its width: what one Host access moves (20_memory.md R43). -/
structure Datum where
  width : Nat
  bits : BitVec width
deriving DecidableEq, Repr

/-- `enc_W(i)`: the `W`-bit vector that denotes `i`, for `0 <= i < 2^W` (R12). -/
def enc (W i : Nat) : BitVec W := BitVec.ofNat W i

/-- `tc_W(i)`: the `W`-bit two's complement encoding of `i` (R12). -/
def tc (W : Nat) (i : Int) : BitVec W := BitVec.ofInt W i

/-- `uval(v)`: the unsigned integer a bit vector denotes (R12). -/
def uval {W : Nat} (v : BitVec W) : Nat := v.toNat

/-- `sval_W(v)`: the inverse of `tc_W` (R12). -/
def sval {W : Nat} (v : BitVec W) : Int :=
  if 2 * v.toNat < 2 ^ W then (v.toNat : Int) else (v.toNat : Int) - (2 ^ W : Nat)

end Sys2Proof
end

