-- ==== Sys2Proof/Machine/State.lean ====
section
/-! DEFINITION. The state of one RRU (spec/10_state.md R15 to R39), its reset value, and why a step can stop. -/

namespace Sys2Proof.Machine

/-- Why the model stops with a fault. The unit itself never stops: a failing command ends with a code in STATUS. -/
inductive Fault where
  /-- Raised by EGCD's completion when a Bezout coefficient lies outside the bound of 40_modular_primitives.md R72, the
  assertion that rule allows. Safe: the model stops rather than write a truncated value, and no unit of a width of R6
  meets it. -/
  | bezoutOutOfRange
  /-- Raised by an Engine turn when BUSY = 1 over a latch whose opcode is none of 1 to 7. Safe: no accept leaves such a
  latch (10_state.md R33), so no run from reset meets it (log entry 11). -/
  | latchNotACommand
deriving DecidableEq, Repr

/-- Why the model refuses a step. -/
inductive Refusal where
  /-- Raised by an arm of `exec` for an instruction without a meaning. Safe. No arm raises it. -/
  | notModelled (mnemonic : String)
  /-- Raised by a Host write whose value is not of the slot's width: "a model refuses" it (20_memory.md R43). Safe: such an
  access is outside the interface. -/
  | wrongWidth
deriving DecidableEq, Repr

/-- The error codes of 60_exceptions.md R94, code 0 (none) apart. -/
inductive ErrCode where
  | illegalCommand
  | modulusZero
  | operandRange
  | invalidCiphertext
  | noInverse
  | noValidRoot
deriving DecidableEq, Repr

/-- STATUS (10_state.md R22), field by field. Its reserved bits have no storage: they read 0 and ignore writes (R30), so
the word of `Status.word` puts zeros there (log entry 7). -/
structure Status where
  busy : Bool
  done : Bool
  err : Bool
  multi : Bool
  ovr : Bool
  errcode : BitVec 4
  lastop : BitVec 4
deriving DecidableEq, Repr

/-- STATUS 0x00000000 (R39). -/
def Status.reset : Status :=
  { busy := false, done := false, err := false, multi := false, ovr := false, errcode := 0, lastop := 0 }

/-- The names of the ten data registers (10_state.md R16). -/
inductive DataReg where
  | opa | opb | opm | opq
  | res0 | res1 | res2 | res3 | res4 | res5
deriving DecidableEq, Repr

/-- One step of the total order of 20_memory.md R49: a Host access, a reset, or the Engine's turn to move (log entry 1). -/
inductive Turn where
  /-- `HostRead(slot)` (R42). -/
  | read (slot : BitVec 4)
  /-- `HostWrite(slot, value)` (R41). -/
  | write (slot : BitVec 4) (value : Datum)
  /-- The reset input is asserted (70_reset_and_hazards.md R115). -/
  | reset
  /-- The Engine may complete the running command (10_state.md R36). -/
  | engine
deriving DecidableEq, Repr

/-- What one Host read returned (R42). -/
structure Reply where
  slot : BitVec 4
  value : Datum
deriving DecidableEq, Repr

/-- One RRU. `width` is the parameter W that CFG.WIDTH reads (R6, R31); it never changes. The ten data registers are those
of R16, `lop` and `sa` to `sq` the Engine latch of R32. CMD holds no value (R21).
`turns` and `replies` are the MODEL'S OWN fields: the steps still to come and what the Host's reads have returned (log
entries 1 and 5). -/
structure State where
  width : Nat
  opa : BitVec width
  opb : BitVec width
  opm : BitVec width
  opq : BitVec width
  res0 : BitVec width
  res1 : BitVec width
  res2 : BitVec width
  res3 : BitVec width
  res4 : BitVec width
  res5 : BitVec width
  status : Status
  lop : BitVec 4
  sa : BitVec width
  sb : BitVec width
  sm : BitVec width
  sq : BitVec width
  turns : List Turn
  replies : List Reply
deriving DecidableEq, Repr

/-- The reset state of a unit of width `w` (R39), with no step to come and nothing read. -/
def State.resetAt (w : Nat) : State :=
  { width := w
    opa := 0, opb := 0, opm := 0, opq := 0
    res0 := 0, res1 := 0, res2 := 0, res3 := 0, res4 := 0, res5 := 0
    status := Status.reset
    lop := 0, sa := 0, sb := 0, sm := 0, sq := 0
    turns := [], replies := [] }

/-- The machine right after reset (R39), for the width of `Config.width` (log entry 6). -/
def State.reset : State := State.resetAt Config.width

end Sys2Proof.Machine
end

