-- ==== Sys2Proof/Machine/Arith.lean ====
section
/-! DEFINITION. The pure functions of spec/40_modular_primitives.md (R70 to R74), on exact integers. -/

namespace Sys2Proof.Machine

/-- `modpow(b, e, m) = (b^e) mod m`, with `b^0 = 1` (R70). -/
def modpow (b e m : Nat) : Nat := b ^ e % m

/-- Square and multiply, for at most `fuel` bits of the exponent. -/
def powModFuel : Nat → Nat → Nat → Nat → Nat
  | 0, _, _, m => 1 % m
  | fuel + 1, b, e, m =>
    if e = 0 then 1 % m
    else
      let r := powModFuel fuel (b * b % m) (e / 2) m
      if e % 2 = 0 then r else r * b % m

/-- `modpow` as it is evaluated, so that a step runs at every `W`. How the power is computed is not observable (R70), and
`powMod_eq` proves the two equal. -/
def powMod (b e m : Nat) : Nat := powModFuel e b e m

/-- The recursion of R71, for at most `fuel` steps. -/
def egcdFuel : Nat → Nat → Nat → Nat × Int × Int
  | 0, a, _ => (a, 1, 0)
  | fuel + 1, a, b =>
    if b = 0 then (a, 1, 0)
    else
      match egcdFuel fuel b (a % b) with
      | (g, x1, y1) => (g, y1, x1 - (a / b : Nat) * y1)

/-- `egcd(a, b) = (g, x, y)` (R71). The second argument strictly decreases, so `b` steps and the terminal case are enough. -/
def egcd (a b : Nat) : Nat × Int × Int := egcdFuel (b + 1) a b

/-- The bound of R72 on one coefficient: `|x| <= 2^(W-1) - 1`. -/
def coefficientFits (W : Nat) (x : Int) : Bool := x.natAbs ≤ 2 ^ (W - 1) - 1

/-- `inv(a, m)` for `m > 0` (R73): the inverse in `[0, m)`, or NO_INVERSE. -/
def inv (a m : Nat) : Except ErrCode Nat :=
  match egcd a m with
  | (g, x, _) => if g = 1 then .ok (x % (m : Int)).toNat else .error .noInverse

/-- `crt(a1, a2, p, q)` for `p, q > 0` (R74). `inv(q, p)` raises NO_INVERSE when `p` and `q` are not coprime. -/
def crt (a1 a2 p q : Nat) : Except ErrCode Nat :=
  match inv q p with
  | .error e => .error e
  | .ok u =>
    match inv p q with
    | .error e => .error e
    | .ok v => .ok ((a1 * q * u + a2 * p * v) % (p * q))

end Sys2Proof.Machine
end

