-- ==== Sys2Proof/Syntax.lean ====
section
/-! DEFINITION. The seven commands of spec/30_encoding.md R60, one constructor per row of spec/opcode_table.json.
No command carries a field: every operand comes from the operand registers (R58, R63). -/

namespace Sys2Proof

/-- A command of the RRU (00_scope.md R2, 30_encoding.md R60). -/
inductive Instr where
  /-- Modular exponentiation (40_modular_primitives.md R76). -/
  | modpow
  /-- Rabin squaring of one block (41_squarer.md R80). -/
  | sqr
  /-- Extended Euclid (40_modular_primitives.md R77). -/
  | egcd
  /-- Modular inverse (40_modular_primitives.md R78). -/
  | modinv
  /-- Chinese-remainder combination (40_modular_primitives.md R79). -/
  | crt
  /-- The four-root finder (42_root_finder.md R87). -/
  | roots
  /-- Root disambiguation (42_root_finder.md R90). -/
  | decrypt
deriving DecidableEq, Repr

end Sys2Proof
end

