-- ==== Sys2Proof/Decode.lean ====
section
/-! DEFINITION. The command word (spec/30_encoding.md R58 to R62): decoder, encoder, and the host's view of the opcode table. -/

namespace Sys2Proof

/-- OPCODE, bits 3:0 (R58). -/
def opcodeOf (w : BitVec 32) : BitVec 4 := w.extractLsb' 0 4

/-- RSVD, bits 31:4 (R58). -/
def rsvdOf (w : BitVec 32) : BitVec 28 := w.extractLsb' 4 28

/-- Why a word is not a command (R61). -/
inductive DecodeReject where
  /-- RSVD is not 0. -/
  | reservedBits
  /-- OPCODE is 0 or 8 to 15. -/
  | reservedOpcode
deriving DecidableEq, Repr

/-- The opcode map of R60. -/
def decodeOpcode (op : BitVec 4) : Option Instr :=
  match op.toNat with
  | 1 => some .modpow
  | 2 => some .sqr
  | 3 => some .egcd
  | 4 => some .modinv
  | 5 => some .crt
  | 6 => some .roots
  | 7 => some .decrypt
  | _ => none

/-- A command word's instruction, or why it is illegal (R59, R61). -/
def decode (w : BitVec 32) : Except DecodeReject Instr :=
  if rsvdOf w = 0 then
    match decodeOpcode (opcodeOf w) with
    | some i => .ok i
    | none => .error .reservedOpcode
  else .error .reservedBits

/-- The opcode of each command (R60). -/
def encodeOpcode : Instr → BitVec 4
  | .modpow => 1
  | .sqr => 2
  | .egcd => 3
  | .modinv => 4
  | .crt => 5
  | .roots => 6
  | .decrypt => 7

/-- The command word of each command, `zext_32` of its opcode (R60). -/
def encode (i : Instr) : BitVec 32 := (encodeOpcode i).setWidth 32

/-- The command word that the low `nbits` bits of `w` make, the bits above them 0 (R62: every command is one 32-bit word).
The RRU has no byte order (20_memory.md R44): a word is a number moved whole (log entry 21). -/
def tableWord (nbits w : Nat) : BitVec 32 := BitVec.ofNat 32 (w % 2 ^ nbits)

/-- The instruction the decoder reads from a word whose bits are numbered as spec/opcode_table.json numbers them. -/
def decodeTableWord (nbits w : Nat) : Option Instr :=
  match decode (tableWord nbits w) with
  | .ok i => some i
  | .error _ => none

end Sys2Proof
end

