-- ==== Sys2Proof/Machine/Flags.lean ====
section
/-! DEFINITION. STATUS: its word, and every rule that writes it (spec/10_state.md R22 to R36, 20_memory.md R41). -/

namespace Sys2Proof.Machine

/-- The number of an error code (60_exceptions.md R94). -/
def ErrCode.code : ErrCode → BitVec 4
  | .illegalCommand => 1
  | .modulusZero => 2
  | .operandRange => 3
  | .invalidCiphertext => 4
  | .noInverse => 5
  | .noValidRoot => 6

/-- The STATUS word of R22, reserved bits 0 (R30). -/
def Status.word (s : Status) : BitVec 32 :=
  0#12 ++ s.lastop ++ 0#4 ++ s.errcode ++ 0#3 ++ BitVec.ofBool s.ovr ++ BitVec.ofBool s.multi ++ BitVec.ofBool s.err
    ++ BitVec.ofBool s.done ++ BitVec.ofBool s.busy

/-- STATUS after the accept of a legal word (R33): OVR is kept. -/
def Status.accept (s : Status) (op : BitVec 4) : Status :=
  { s with lastop := op, done := false, err := false, errcode := 0, multi := false, busy := true }

/-- STATUS after an illegal word written while idle (R34): BUSY never becomes 1, OVR is kept. -/
def Status.illegal (s : Status) (op : BitVec 4) : Status :=
  { s with lastop := op, multi := false, err := true, errcode := ErrCode.illegalCommand.code, done := true }

/-- STATUS after a CMD write while busy (R35). -/
def Status.overrun (s : Status) : Status :=
  { s with ovr := true }

/-- STATUS after a completion whose outcome is `Ok` (R36). -/
def Status.succeed (s : Status) (multi : Bool) : Status :=
  { s with multi := multi, err := false, errcode := 0, done := true, busy := false }

/-- STATUS after a completion whose outcome is `Err` (R36, 60_exceptions.md R104). -/
def Status.fail (s : Status) (c : ErrCode) : Status :=
  { s with multi := false, err := true, errcode := c.code, done := true, busy := false }

/-- STATUS after a Host write of `v` to slot 1: write-one-to-clear, ERRCODE cleared with ERR (20_memory.md R41). -/
def Status.clear (s : Status) (v : BitVec 32) : Status :=
  { s with
    done := s.done && !v.getLsbD 1
    err := s.err && !v.getLsbD 2
    errcode := if v.getLsbD 2 then 0 else s.errcode
    multi := s.multi && !v.getLsbD 3
    ovr := s.ovr && !v.getLsbD 4 }

end Sys2Proof.Machine
end

