-- ==== Sys2Proof/Machine/Operands.lean ====
section
/-! DEFINITION. Registers as numbers, the snapshot, and the operands a command computes from
(spec/00_scope.md R13, 10_state.md R32, R33, 30_encoding.md R63, R64). -/

namespace Sys2Proof.Machine

/-- The contents of a data register (10_state.md R16). -/
def State.data (s : State) : DataReg → BitVec s.width
  | .opa => s.opa
  | .opb => s.opb
  | .opm => s.opm
  | .opq => s.opq
  | .res0 => s.res0
  | .res1 => s.res1
  | .res2 => s.res2
  | .res3 => s.res3
  | .res4 => s.res4
  | .res5 => s.res5

/-- `x[NAME]` for a data register, as an unsigned integer (R13). -/
def State.x (s : State) (r : DataReg) : Nat := uval (s.data r)

/-- A Host write to a data register's slot: an operand register is replaced whole (R17), a write to a result register is
ignored (R18). The Host's value is of the slot's width (20_memory.md R43), so it is taken bit for bit. -/
def State.writeData (s : State) (r : DataReg) (v : Datum) : State :=
  match r with
  | .opa => { s with opa := v.bits.setWidth s.width }
  | .opb => { s with opb := v.bits.setWidth s.width }
  | .opm => { s with opm := v.bits.setWidth s.width }
  | .opq => { s with opq := v.bits.setWidth s.width }
  | .res0 => s
  | .res1 => s
  | .res2 => s
  | .res3 => s
  | .res4 => s
  | .res5 => s

/-- The copy of the operand registers the accept makes in the latch (R33). -/
def State.snapshot (s : State) : State :=
  { s with sa := s.opa, sb := s.opb, sm := s.opm, sq := s.opq }

/-- A command's four operands, in the order SA, SB, SM, SQ (30_encoding.md R63). Each command uses those R64 names. -/
structure Operands where
  a : Nat
  b : Nat
  m : Nat
  q : Nat
deriving DecidableEq, Repr

/-- The snapshot read by zero extension (R63). -/
def State.operands (s : State) : Operands :=
  { a := uval s.sa, b := uval s.sb, m := uval s.sm, q := uval s.sq }

end Sys2Proof.Machine
end

