-- ==== Sys2Proof/Machine/Ops.lean ====
section
/-! DEFINITION. The named operations on the state: slots, Host accesses, the CMD write, the completion with its error
entry, reset (spec/10_state.md R31 to R36, 20_memory.md R40 to R43, 60_exceptions.md R104, 70_reset_and_hazards.md R115). -/

namespace Sys2Proof.Machine

/-- What stands at a slot (20_memory.md R40). -/
inductive SlotReg where
  | cmd
  | status
  | cfg
  | reserved
  | data (r : DataReg)
deriving DecidableEq, Repr

/-- The slot map of R40; slots 3, 14 and 15 are reserved. -/
def slotReg (i : BitVec 4) : SlotReg :=
  match i.toNat with
  | 0 => .cmd
  | 1 => .status
  | 2 => .cfg
  | 4 => .data .opa
  | 5 => .data .opb
  | 6 => .data .opm
  | 7 => .data .opq
  | 8 => .data .res0
  | 9 => .data .res1
  | 10 => .data .res2
  | 11 => .data .res3
  | 12 => .data .res4
  | 13 => .data .res5
  | _ => .reserved

/-- The width of a slot in a unit of width `W` (R40, R43). -/
def slotWidth (W : Nat) (i : BitVec 4) : Nat :=
  match slotReg i with
  | .cmd => 32
  | .status => 32
  | .cfg => 32
  | .reserved => 32
  | .data _ => W

/-- The CFG word: WIDTH in bits 15:0, zeros above (10_state.md R31). -/
def State.cfg (s : State) : BitVec 32 := (enc 16 s.width).setWidth 32

/-- The value `HostRead(i)` returns (20_memory.md R42). -/
def State.hostRead (s : State) (i : BitVec 4) : Datum :=
  match slotReg i with
  | .cmd => ⟨32, 0⟩
  | .status => ⟨32, s.status.word⟩
  | .cfg => ⟨32, s.cfg⟩
  | .reserved => ⟨32, 0⟩
  | .data r => ⟨s.width, s.data r⟩

/-- The accept of a legal command word with opcode `op` (10_state.md R33). -/
def State.accept (s : State) (op : BitVec 4) : State :=
  { s.snapshot with lop := op, status := s.status.accept op }

/-- An illegal command word with opcode field `op`, written while idle (R34). -/
def State.illegal (s : State) (op : BitVec 4) : State :=
  { s with status := s.status.illegal op }

/-- A CMD write while busy (R35): the word is discarded. -/
def State.overrun (s : State) : State :=
  { s with status := s.status.overrun }

/-- A Host write of `w` to CMD (R33 to R35). -/
def State.commandWrite (s : State) (w : BitVec 32) : State :=
  if s.status.busy then s.overrun
  else
    match decode w with
    | .ok _ => s.accept (opcodeOf w)
    | .error _ => s.illegal (opcodeOf w)

/-- The register effect of `HostWrite(i, v)`, `v` being of the slot's width (20_memory.md R41). -/
def State.slotWrite (s : State) (i : BitVec 4) (v : Datum) : State :=
  match slotReg i with
  | .cmd => s.commandWrite (v.bits.setWidth 32)
  | .status => { s with status := s.status.clear (v.bits.setWidth 32) }
  | .cfg => s
  | .reserved => s
  | .data r => s.writeData r v

/-- `HostWrite(i, v)` (R41); a value that is not of the slot's width is refused (R43). -/
def State.hostWrite (s : State) (i : BitVec 4) (v : Datum) : Host.Outcome State Fault Refusal :=
  if v.width = slotWidth s.width i then .next (s.slotWrite i v) else .refused .wrongWidth

/-- A result's value: an unsigned number, or one of EGCD's two signed coefficients (10_state.md R19). -/
inductive ResultValue where
  | unsigned (v : Nat)
  | signed (v : Int)
deriving DecidableEq, Repr

/-- A result as the bits of a `W`-bit register: `enc_W` or `tc_W` (30_encoding.md R66). -/
def ResultValue.bits (W : Nat) : ResultValue → BitVec W
  | .unsigned v => enc W v
  | .signed v => tc W v

/-- The results a successful command names (00_scope.md R14): a register it does not name is not written. -/
structure Results where
  res0 : Option ResultValue := none
  res1 : Option ResultValue := none
  res2 : Option ResultValue := none
  res3 : Option ResultValue := none
  res4 : Option ResultValue := none
  res5 : Option ResultValue := none
  multi : Bool := false
deriving DecidableEq, Repr

/-- A register after a commit: the named result, or what it held (10_state.md R18). -/
def commitReg {W : Nat} (v : Option ResultValue) (old : BitVec W) : BitVec W :=
  match v with
  | some v => v.bits W
  | none => old

/-- The outcome of a command's function: `Ok(results)` or `Err(code)` (R14). -/
abbrev CmdOutcome := Except ErrCode Results

/-- TAKING AN ERROR: the `Err` branch of the completion (10_state.md R36, 60_exceptions.md R104). It writes STATUS and
nothing else. There is no return operation beside it (R105): the next accept or a write of STATUS clears ERR. -/
def State.raise (s : State) (c : ErrCode) : State :=
  { s with status := s.status.fail c }

/-- The `Ok` branch of the completion (10_state.md R36): exactly the named registers are written (R18). -/
def State.commit (s : State) (r : Results) : State :=
  { s with
    res0 := commitReg r.res0 s.res0
    res1 := commitReg r.res1 s.res1
    res2 := commitReg r.res2 s.res2
    res3 := commitReg r.res3 s.res3
    res4 := commitReg r.res4 s.res4
    res5 := commitReg r.res5 s.res5
    status := s.status.succeed r.multi }

/-- The completion of a command whose function gave `o`, in one indivisible step (R36). -/
def State.complete (s : State) (o : CmdOutcome) : State :=
  match o with
  | .ok r => s.commit r
  | .error c => s.raise c

/-- The command in the latch (R32, R60). -/
def State.fetch (s : State) : Option Instr := decodeOpcode s.lop

/-- Reset (70_reset_and_hazards.md R115): every piece of the unit's state to its reset value, CFG kept. The model's own
fields are not the unit's and stay (log entry 18). -/
def State.applyReset (s : State) : State :=
  { State.resetAt s.width with turns := s.turns, replies := s.replies }

/-- A Host read as a step (20_memory.md R42): the unit's state is unchanged and the Host gets the value. -/
def State.readTurn (s : State) (i : BitVec 4) : State :=
  { s with replies := s.replies ++ [⟨i, s.hostRead i⟩] }

end Sys2Proof.Machine
end

