-- ==== Sys2Proof/Machine/Primitives.lean ====
section
/-! DEFINITION. MODPOW, EGCD, MODINV and CRT (spec/40_modular_primitives.md R76 to R79): each command's function of its
operands (00_scope.md R14), and its completion. -/

namespace Sys2Proof.Machine

/-- MODPOW's function (R76). -/
def cmdModpow (o : Operands) : CmdOutcome :=
  if o.m = 0 then .error .modulusZero
  else .ok { res0 := some (.unsigned (powMod o.a o.b o.m)) }

/-- MODPOW (R76). -/
def execModpow (s : State) : Host.Outcome State Fault Refusal :=
  .next (s.complete (cmdModpow s.operands))

/-- EGCD's function (R77), total on all operands. -/
def cmdEgcd (o : Operands) : CmdOutcome :=
  match egcd o.a o.b with
  | (g, x, y) => .ok { res0 := some (.unsigned g), res1 := some (.signed x), res2 := some (.signed y) }

/-- The assertion of R72 on a triple of R71: both coefficients fit. -/
def bezoutFits (W : Nat) (o : Operands) : Bool :=
  match egcd o.a o.b with
  | (_, x, y) => coefficientFits W x && coefficientFits W y

/-- EGCD (R77). Should the bound of R72 ever fail, the model faults rather than write a truncated value (log entry 10). -/
def execEgcd (s : State) : Host.Outcome State Fault Refusal :=
  if bezoutFits s.width s.operands then .next (s.complete (cmdEgcd s.operands))
  else .fault .bezoutOutOfRange

/-- MODINV's function (R78): a zero modulus is checked first. -/
def cmdModinv (o : Operands) : CmdOutcome :=
  if o.m = 0 then .error .modulusZero
  else
    match inv o.a o.m with
    | .error e => .error e
    | .ok r => .ok { res0 := some (.unsigned r) }

/-- MODINV (R78). -/
def execModinv (s : State) : Host.Outcome State Fault Refusal :=
  .next (s.complete (cmdModinv s.operands))

/-- CRT's function (R79), its checks in the order of 60_exceptions.md R102. -/
def cmdCrt (W : Nat) (o : Operands) : CmdOutcome :=
  if o.m = 0 ∨ o.q = 0 then .error .modulusZero
  else if 2 ^ W ≤ o.m * o.q then .error .operandRange
  else if Nat.gcd o.m o.q ≠ 1 then .error .noInverse
  else
    match crt o.a o.b o.m o.q with
    | .error e => .error e
    | .ok r => .ok { res0 := some (.unsigned r) }

/-- CRT (R79). -/
def execCrt (s : State) : Host.Outcome State Fault Refusal :=
  .next (s.complete (cmdCrt s.width s.operands))

end Sys2Proof.Machine
end

