-- ==== Sys2Proof/Machine/RootFinder.lean ====
section
/-! DEFINITION. ROOTS and DECRYPT (spec/42_root_finder.md R82 to R91): the checks, the half-roots, the four candidates, the
range scan, and the two completions. -/

namespace Sys2Proof.Machine

/-- The input checks in their order (R82): the first that fails gives the error. -/
def checkInputs (W c p q : Nat) : Except ErrCode Unit :=
  if p = 0 ∨ q = 0 then .error .modulusZero
  else if 2 ^ W ≤ p * q then .error .operandRange
  else if p * q ≤ c then .error .invalidCiphertext
  else if Nat.gcd p q ≠ 1 then .error .noInverse
  else .ok ()

/-- A half-root, `modpow(c, (p + 1) div 4, p)` (R83), for every `p`: prime or not, `3 mod 4` or not (R84). -/
def halfRoot (c p : Nat) : Nat := powMod c ((p + 1) / 4) p

/-- `(p - r) mod p`, which represents `-r` (R86). -/
def negRoot (r p : Nat) : Nat := (p - r) % p

/-- The half-roots and the four candidates (R83, R86). -/
structure RootSet where
  rp : Nat
  rq : Nat
  cand0 : Nat
  cand1 : Nat
  cand2 : Nat
  cand3 : Nat
deriving DecidableEq, Repr

/-- Candidate `k` in the source's fixed order (R86). -/
def RootSet.cand (r : RootSet) (k : Fin 4) : Nat :=
  match k with
  | 0 => r.cand0
  | 1 => r.cand1
  | 2 => r.cand2
  | 3 => r.cand3

/-- The half-roots combined under the four signs, `(+,+)`, `(+,-)`, `(-,+)`, `(-,-)` (R86). -/
def combineRoots (rp rq p q : Nat) : Except ErrCode RootSet :=
  match crt rp rq p q with
  | .error e => .error e
  | .ok c0 =>
    match crt rp (negRoot rq q) p q with
    | .error e => .error e
    | .ok c1 =>
      match crt (negRoot rp p) rq p q with
      | .error e => .error e
      | .ok c2 =>
        match crt (negRoot rp p) (negRoot rq q) p q with
        | .error e => .error e
        | .ok c3 => .ok { rp := rp, rq := rq, cand0 := c0, cand1 := c1, cand2 := c2, cand3 := c3 }

/-- The checks, then the half-roots and candidates: what ROOTS and DECRYPT share (R82, R83, R86). -/
def findRoots (W c p q : Nat) : Except ErrCode RootSet :=
  match checkInputs W c p q with
  | .error e => .error e
  | .ok () => combineRoots (halfRoot c p) (halfRoot c q) p q

/-- `H`: the positions of the candidates in range, ascending (R88). -/
def RootSet.hits (r : RootSet) : List (Fin 4) :=
  [0, 1, 2, 3].filter fun k => r.cand k ≤ Config.plaintextMax

/-- A multi-hit (R89): the in-range candidates hold at least two distinct values. -/
def RootSet.multiHit (r : RootSet) : Bool :=
  r.hits.any fun j => r.hits.any fun k => r.cand j != r.cand k

/-- ROOTS's function (R87). -/
def cmdRoots (W : Nat) (o : Operands) : CmdOutcome :=
  match findRoots W o.a o.m o.q with
  | .error e => .error e
  | .ok r =>
    .ok { res0 := some (.unsigned r.cand0), res1 := some (.unsigned r.cand1), res2 := some (.unsigned r.cand2),
          res3 := some (.unsigned r.cand3), res4 := some (.unsigned r.rp), res5 := some (.unsigned r.rq) }

/-- ROOTS (R87). -/
def execRoots (s : State) : Host.Outcome State Fault Refusal :=
  .next (s.complete (cmdRoots s.width s.operands))

/-- The range scan and DECRYPT's results (R88 to R91): the first candidate in range wins, whatever else is in range. -/
def scanRoots (r : RootSet) : CmdOutcome :=
  match r.hits with
  | [] => .error .noValidRoot
  | k :: _ =>
    .ok { res0 := some (.unsigned (r.cand k)), res1 := some (.unsigned k.val), res2 := some (.unsigned r.hits.length),
          multi := r.multiHit }

/-- DECRYPT's function (R90). -/
def cmdDecrypt (W : Nat) (o : Operands) : CmdOutcome :=
  match findRoots W o.a o.m o.q with
  | .error e => .error e
  | .ok r => scanRoots r

/-- DECRYPT (R90). -/
def execDecrypt (s : State) : Host.Outcome State Fault Refusal :=
  .next (s.complete (cmdDecrypt s.width s.operands))

end Sys2Proof.Machine
end

