-- ==== Sys2Proof/Machine/Squarer.lean ====
section
/-! DEFINITION. SQR (spec/41_squarer.md R80, R81). -/

namespace Sys2Proof.Machine

/-- SQR's function (R80): the product is exact, and no operand is refused but a zero modulus (R81). -/
def cmdSqr (o : Operands) : CmdOutcome :=
  if o.m = 0 then .error .modulusZero
  else .ok { res0 := some (.unsigned (o.a * o.a % o.m)) }

/-- SQR (R80). -/
def execSqr (s : State) : Host.Outcome State Fault Refusal :=
  .next (s.complete (cmdSqr s.operands))

end Sys2Proof.Machine
end

