-- ==== Sys2Proof/Machine/Turns.lean ====
section
/-! DEFINITION. What each turn of the total order does (spec/20_memory.md R49, 10_state.md R36, 00_scope.md R8). -/

namespace Sys2Proof.Machine

/-- The completion of the command in the latch (10_state.md R36). -/
def completeLatched (s : State) : Host.Outcome State Fault Refusal :=
  match s.fetch with
  | some i => exec i s
  | none => .fault .latchNotACommand

/-- The Engine's turn: its step is enabled exactly when BUSY = 1 (R36); otherwise nothing happens (log entry 3). -/
def engineTurn (s : State) : Host.Outcome State Fault Refusal :=
  if s.status.busy then completeLatched s else .next s

/-- One turn of the total order (20_memory.md R49). -/
def takeTurn (t : Turn) (s : State) : Host.Outcome State Fault Refusal :=
  match t with
  | .read i => .next (s.readTurn i)
  | .write i v => s.hostWrite i v
  | .reset => .next s.applyReset
  | .engine => engineTurn s

/-- The turn the next step takes: the oldest to come, or, when none is left, the Engine's, since a completion that is owed
is taken (00_scope.md R8, 70_reset_and_hazards.md R127; log entry 2). -/
def State.nextTurn (s : State) : Turn := s.turns.headD .engine

/-- `s` with that turn taken off the turns to come. -/
def State.popTurn (s : State) : State := { s with turns := s.turns.tail }

/-- The next step of the total order. -/
def nextStep (s : State) : Host.Outcome State Fault Refusal := takeTurn s.nextTurn s.popTurn

/-- `ts` with the Engine to move first; with no turn to come the Engine moves first already. -/
def engineFirst (ts : List Turn) : List Turn :=
  match ts with
  | [] => []
  | t :: ts => .engine :: t :: ts

/-- `s` with the command word `w` placed where the next step runs it. A legal word: the accept of R33 has taken it and the
Engine moves next. Any other word: the unit is idle and the Host's write of it to CMD is the next turn (R34). -/
def placeCommand (s : State) (w : BitVec 32) : State :=
  match decode w with
  | .ok _ => { s.accept (opcodeOf w) with turns := engineFirst s.turns }
  | .error _ => { s with status := { s.status with busy := false }, turns := .write 0 ⟨32, w⟩ :: s.turns }

end Sys2Proof.Machine
end

