-- ==== Sys2Proof/Machine/Step.lean ====
section
/-! DEFINITION. The step of one RRU, and the host's way of placing an instruction (log entry 13). -/

namespace Sys2Proof.Machine

/-- One step of the total order of spec/20_memory.md R49. -/
def step (s : State) : Host.Outcome State Fault Refusal := nextStep s

/-- `s` with the command word made of the low `nbits` bits of `w` placed where the very next step runs it. -/
def State.withFetchWord (s : State) (nbits w : Nat) : State := placeCommand s (tableWord nbits w)

end Sys2Proof.Machine
end

