-- ==== Sys2Proof/Machine/CommandFunction.lean ====
section
/-! DEFINITION. The pure function of spec/00_scope.md R14: a command's outcome from its opcode and operands, and from W through the OPERAND_RANGE check. -/

namespace Sys2Proof.Machine

/-- `exec(op, a, b, m, q) -> Ok(results) | Err(code)` of R14. -/
def cmdOutcome (i : Instr) (W : Nat) (o : Operands) : CmdOutcome :=
  match i with
  | .modpow => cmdModpow o
  | .sqr => cmdSqr o
  | .egcd => cmdEgcd o
  | .modinv => cmdModinv o
  | .crt => cmdCrt W o
  | .roots => cmdRoots W o
  | .decrypt => cmdDecrypt W o

end Sys2Proof.Machine
end

