-- ==== Sys2Proof/Machine/HostProgram.lean ====
section
/-! DEFINITION. The Host program notation of spec/30_encoding.md R67 to R69, as turns and transactions. -/

namespace Sys2Proof.Machine

/-- A line of a Host program (R67, R68). -/
inductive HostOp where
  /-- `WR slot, value`; a negative value means its two's complement (R67). -/
  | wr (slot : BitVec 4) (value : Int)
  /-- `RD slot`. -/
  | rd (slot : BitVec 4)
  /-- `CMD mnemonic`. -/
  | cmd (i : Instr)
  /-- `WAIT`, in the run where `polls` reads of STATUS find BUSY = 1 before the completion (00_scope.md R8). DESIGN CHOICE
  (log entry 4), unsafe for a claim about one run alone: the number of polls is the line's argument. -/
  | wait (polls : Nat)
  /-- `CLR`. -/
  | clr
  /-- The reset input, asserted between two accesses (95_test_vectors.md P5). -/
  | reset
  /-- No line of the notation: in the run described, the Engine moves between the two lines. DESIGN CHOICE (log entry 4),
  unsafe for a claim about one run alone: where a completion falls is open (00_scope.md R8, 20_memory.md R49), and a
  program is written with these marks at the places the run gives it. Between the two commands of
  95_test_vectors.md P4 the mark is run B, its absence run A. -/
  | engine
deriving DecidableEq, Repr

/-- A line's value fits its slot: below `2^width`, or, on a `W`-bit slot, a negative number with a two's complement (R67). -/
def HostOp.wellFormed (W : Nat) : HostOp → Bool
  | .wr i v =>
    v < (2 ^ slotWidth W i : Nat)
      && (0 ≤ v
        || match slotReg i with
          | .data _ => -(2 ^ (W - 1) : Nat) ≤ v
          | .cmd => false
          | .status => false
          | .cfg => false
          | .reserved => false)
  | .rd _ => true
  | .cmd _ => true
  | .wait _ => true
  | .clr => true
  | .reset => true
  | .engine => true

/-- The turns a line stands for, on a unit of width `W` (R67, R68). DESIGN CHOICE (log entry 4), unsafe for a claim
about one run alone: a line brings the Engine's turn only in a `WAIT`, before its last read, and in an `engine` mark. So two
`CMD` lines with neither between them are the run in which the second overruns (70_reset_and_hazards.md R121); with an
`engine` mark between them the first has completed and the second is accepted. The spec admits both. -/
def HostOp.turns (W : Nat) : HostOp → List Turn
  | .wr i v => [.write i ⟨slotWidth W i, BitVec.ofInt (slotWidth W i) v⟩]
  | .rd i => [.read i]
  | .cmd i => [.write 0 ⟨32, encode i⟩]
  | .wait polls => List.replicate polls (.read 1) ++ [.engine, .read 1]
  | .clr => [.write 1 ⟨32, 0x1E⟩]
  | .reset => [.reset]
  | .engine => [.engine]

/-- The turns of ONE run of a Host program: the one whose completions fall where its `wait` lines and `engine` marks put
them. DESIGN CHOICE (log entry 4), unsafe for a claim about one run alone: the spec leaves that open (00_scope.md R8,
20_memory.md R49), so a claim about a program must hold for every placing of marks and every number of polls. -/
def programTurns (W : Nat) (ops : List HostOp) : List Turn :=
  ops.flatMap (HostOp.turns W)

/-- The direction of a transaction (R69). -/
inductive Dir where
  | w
  | r
deriving DecidableEq, Repr

/-- The triple `(dir, slot, data)` of one Host access (R69), `data` as hexadecimal digits, most significant first. -/
structure Transaction where
  dir : Dir
  slot : BitVec 4
  data : List Nat
deriving DecidableEq, Repr

/-- The hexadecimal digits of a value, as many as its width takes: `ceil(width / 4)` (R69). -/
def hexDigits (d : Datum) : List Nat :=
  (List.range ((d.width + 3) / 4)).reverse.map fun k => uval d.bits / 16 ^ k % 16

/-- The transaction of a Host write (R69); the other turns write nothing. -/
def Turn.transaction : Turn → Option Transaction
  | .write i v => some { dir := .w, slot := i, data := hexDigits v }
  | .read _ => none
  | .reset => none
  | .engine => none

/-- The transaction of a Host read, with the value it returned (R69). -/
def Reply.transaction (r : Reply) : Transaction :=
  { dir := .r, slot := r.slot, data := hexDigits r.value }

end Sys2Proof.Machine
end

