-- ==== Sys2Proof/Machine/Platform.lean ====
section
/-! DEFINITION. A platform of several independent RRUs (spec/00_scope.md R9, 20_memory.md R56, 60_exceptions.md R112). -/

namespace Sys2Proof.Machine

/-- Any number of instances, each with its own complete state (R9). They carry no identifier (R112): a place in the list is
the platform's. -/
abbrev Platform := List State

/-- One step of the instance at place `k`; no step of one instance reads or writes another (R56). A place that holds none
leaves the platform as it is. -/
def Platform.step (p : Platform) (k : Nat) : Host.Outcome Platform Fault Refusal :=
  match p[k]? with
  | none => .next p
  | some s =>
    match Sys2Proof.Machine.step s with
    | .next t => .next (p.set k t)
    | .fault f => .fault f
    | .refused r => .refused r

end Sys2Proof.Machine
end

