-- ==== Sys2Proof/WellFormed.lean ====
section
/-! DEFINITION. What is well formed: an instruction, a command word (spec/30_encoding.md R59), a width (00_scope.md R6)
and a Host access (20_memory.md R43). -/

namespace Sys2Proof

/-- An instruction is its opcode and nothing else (R58), so every instruction is well formed. -/
def Instr.wellFormed : Instr → Bool
  | .modpow => true
  | .sqr => true
  | .egcd => true
  | .modinv => true
  | .crt => true
  | .roots => true
  | .decrypt => true

/-- A legal command word, in R59's own terms: bits 31:4 are 0 and bits 3:0 are one of 1 to 7.
It is stated on the number the word denotes, apart from the decoder. -/
def wordWellFormed (w : BitVec 32) : Bool :=
  w.toNat / 16 == 0 && (1 ≤ w.toNat % 16 && w.toNat % 16 ≤ 7)

/-- A width a unit may have (R6). -/
def widthWellFormed (w : Nat) : Bool :=
  Config.minWidth ≤ w && w ≤ Config.maxWidth

/-- A value is of its slot's width (R43). -/
def accessWellFormed (slotWidth : Nat) (d : Datum) : Bool :=
  d.width == slotWidth

end Sys2Proof
end

