-- ==== Sys2Proof/Safety.lean ====
section
/-! DEFINITION. What counts as a legal state, a legal Host, and the end of a run. -/

namespace Sys2Proof.Safety

open Sys2Proof.Machine

/-- Which commands may end with an error code (60_exceptions.md R94, column "raised by"): `op` is the opcode field of the
last word taken while idle. An illegal word may carry any opcode field (10_state.md R34). -/
def mayRaise (op : BitVec 4) (c : ErrCode) : Bool :=
  match c, decodeOpcode op with
  | .illegalCommand, _ => true
  | .modulusZero, some i => i ≠ .egcd
  | .operandRange, some i => i = .crt || i = .roots || i = .decrypt
  | .invalidCiphertext, some i => i = .roots || i = .decrypt
  | .noInverse, some i => i = .modinv || i = .crt || i = .roots || i = .decrypt
  | .noValidRoot, some i => i = .decrypt
  | _, none => false

/-- The error codes, code 0 apart (R94). -/
def errCodes : List ErrCode :=
  [.illegalCommand, .modulusZero, .operandRange, .invalidCiphertext, .noInverse, .noValidRoot]

/-- ERR and ERRCODE agree (10_state.md R26): no error and code 0, or an error the last command may raise. -/
def errorLegal (s : Status) : Bool :=
  match s.err with
  | true => errCodes.any fun c => s.errcode == c.code && mayRaise s.lastop c
  | false => s.errcode == 0

/-- MULTI is 1 only over a DECRYPT that succeeded (10_state.md R27). -/
def multiLegal (s : Status) : Bool :=
  !s.multi || (s.lastop == encodeOpcode .decrypt && !s.err)

/-- While BUSY = 1 the latch holds the accepted command, LASTOP names it, and the accept's clearing of DONE, ERR and MULTI
stands (10_state.md R32, R33). -/
def busyLegal (s : State) : Bool :=
  !s.status.busy
    || ((decodeOpcode s.lop).isSome && s.status.lastop == s.lop && !s.status.done && !s.status.err && !s.status.multi)

/-- The invariant of the unit: a width of 00_scope.md R6 and a STATUS that the rules of 10_state.md can leave. -/
def stateLegal (s : State) : Bool :=
  widthWellFormed s.width && busyLegal s && errorLegal s.status && multiLegal s.status

/-- The Host's turns to come are all of the interface: every written value is of its slot's width (20_memory.md R43). -/
def turnFits (W : Nat) : Turn → Bool
  | .read _ => true
  | .write i v => accessWellFormed (slotWidth W i) v
  | .reset => true
  | .engine => true

/-- Every turn to come fits. -/
def hostLegal (s : State) : Bool := s.turns.all (turnFits s.width)

/-- The turns that are Host accesses (20_memory.md R41, R42); a reset and the Engine's turn are none. -/
def isAccess : Turn → Bool
  | .read _ => true
  | .write _ _ => true
  | .reset => false
  | .engine => false

/-- A run has ended: the Host has made its last access and BUSY = 0 (70_reset_and_hazards.md R127). A reset or an Engine's
turn still to come is no access, and does not keep a run from having ended. -/
def ended (s : State) : Bool := !s.turns.any isAccess && !s.status.busy

/-- A run has ended well: R127 says that one with ERR = 1 has ended, but not well. -/
def endedWell (s : State) : Bool := ended s && !s.status.err

/-- The run from `s` ends in `t`, after `k` steps: `t` is the first state in which it has ended (R127). Whether it ended
well is `endedWell t`, whatever turns follow. -/
def EndsAt (k : Nat) (s t : State) : Prop :=
  Host.Core.run core k s = .next t ∧ ended t = true
    ∧ ∀ j, j < k → ∃ u, Host.Core.run core j s = .next u ∧ ended u = false

end Sys2Proof.Safety
end

