-- ==== Sys2Proof/Certificates/Slice0/Obligations.lean ====
section
/-! DEFINITION. The statements for the provers, from the numbered rules of spec/. -/

namespace Sys2Proof.Claims

open Sys2Proof.Machine

/-- The result registers. -/
def results : List DataReg := [.res0, .res1, .res2, .res3, .res4, .res5]

/-- The slot of each data register (10_state.md R16). -/
def slotOf : DataReg → BitVec 4
  | .opa => 4
  | .opb => 5
  | .opm => 6
  | .opq => 7
  | .res0 => 8
  | .res1 => 9
  | .res2 => 10
  | .res3 => 11
  | .res4 => 12
  | .res5 => 13

/-- `t` is `s` but for STATUS and the data registers of `rs`: the other data registers, the Engine latch, CFG's width, and
the model's own turns and replies are as they were. -/
def FrameExcept (s t : State) (rs : List DataReg) : Prop :=
  t.width = s.width ∧ (∀ r, r ∉ rs → t.x r = s.x r) ∧ t.lop = s.lop ∧ t.operands = s.operands
    ∧ t.turns = s.turns ∧ t.replies = s.replies

/-- STATUS after an `Ok` completion (10_state.md R36): OVR and LASTOP are as they were. -/
def StatusOk (s t : State) (multi : Bool) : Prop :=
  t.status = { s.status with busy := false, done := true, err := false, errcode := 0, multi := multi }

/-- STATUS after an `Err` completion with error code `code` (10_state.md R36): OVR and LASTOP are as they were. -/
def StatusErr (s t : State) (code : BitVec 4) : Prop :=
  t.status = { s.status with busy := false, done := true, err := true, errcode := code, multi := false }

/-- Command `i` completes from `s` with error code `code` and writes STATUS alone. -/
def Fails (i : Instr) (s : State) (code : BitVec 4) : Prop :=
  ∃ t, exec i s = .next t ∧ FrameExcept s t [] ∧ StatusErr s t code

/-- Command `i` completes from `s` without error, writes STATUS and no data register outside `rs`, and `P` holds of the
state it leaves. -/
def Succeeds (i : Instr) (s : State) (rs : List DataReg) (multi : Bool) (P : State → Prop) : Prop :=
  ∃ t, exec i s = .next t ∧ FrameExcept s t rs ∧ StatusOk s t multi ∧ P t

/-- The accept of R33: `t` is `s` with LOP, the snapshot and STATUS written. -/
def Accepted (s t : State) (op : BitVec 4) : Prop :=
  t.width = s.width ∧ (∀ r, t.x r = s.x r) ∧ t.turns = s.turns ∧ t.replies = s.replies
    ∧ t.lop = op ∧ t.operands = { a := s.x .opa, b := s.x .opb, m := s.x .opm, q := s.x .opq }
    ∧ t.status =
      { s.status with lastop := op, done := false, err := false, errcode := 0, multi := false, busy := true }

/-- The illegal word of R34: `t` is `s` with STATUS written, BUSY and OVR kept. -/
def ReportedIllegal (s t : State) (op : BitVec 4) : Prop :=
  FrameExcept s t []
    ∧ t.status = { s.status with lastop := op, multi := false, err := true, errcode := 1, done := true }

/-- The overrun of R35: `t` is `s` with OVR set. -/
def Overran (s t : State) : Prop :=
  FrameExcept s t [] ∧ t.status = { s.status with ovr := true }

/-- What the results of a command's function name for a data register. -/
def named (o : Results) : DataReg → Option ResultValue
  | .opa => none
  | .opb => none
  | .opm => none
  | .opq => none
  | .res0 => o.res0
  | .res1 => o.res1
  | .res2 => o.res2
  | .res3 => o.res3
  | .res4 => o.res4
  | .res5 => o.res5

/-- A legal command word, field by field (30_encoding.md R59). -/
def Legal (w : BitVec 32) : Prop :=
  w.extractLsb 31 4 = 0 ∧ (w.extractLsb 3 0).toNat ∈ [1, 2, 3, 4, 5, 6, 7]

/-- The input checks of 42_root_finder.md R82 pass. -/
def ChecksPass (s : State) : Prop :=
  uval s.sm ≠ 0 ∧ uval s.sq ≠ 0 ∧ uval s.sm * uval s.sq < 2 ^ s.width ∧ uval s.sa < uval s.sm * uval s.sq
    ∧ Nat.gcd (uval s.sm) (uval s.sq) = 1

/-- The checks of 42_root_finder.md R82 that fail, in their order, as command `i` reports them. -/
def ChecksInOrder (i : Instr) (s : State) : Prop :=
  let c := uval s.sa
  let p := uval s.sm
  let q := uval s.sq
  (p = 0 ∨ q = 0 → Fails i s 2)
  ∧ (p ≠ 0 → q ≠ 0 → 2 ^ s.width ≤ p * q → Fails i s 3)
  ∧ (p ≠ 0 → q ≠ 0 → p * q < 2 ^ s.width → p * q ≤ c → Fails i s 4)
  ∧ (p ≠ 0 → q ≠ 0 → p * q < 2 ^ s.width → c < p * q → Nat.gcd p q ≠ 1 → Fails i s 5)

/-- `r_p` of R83, in the source's formula. -/
def rp (s : State) : Nat := uval s.sa ^ ((uval s.sm + 1) / 4) % uval s.sm

/-- `r_q` of R83. -/
def rq (s : State) : Nat := uval s.sa ^ ((uval s.sq + 1) / 4) % uval s.sq

/-- `v` is the number below `p*q` that is `r mod p` and `r' mod q`. -/
def Combines (v r r' p q : Nat) : Prop := v < p * q ∧ v % p = r % p ∧ v % q = r' % q

/-- `cand` lists the four candidates of R86 in order: `(+,+)`, `(+,-)`, `(-,+)`, `(-,-)`. -/
def CandidatesAre (s : State) (cand : Fin 4 → Nat) : Prop :=
  let p := uval s.sm
  let q := uval s.sq
  Combines (cand 0) (rp s) (rq s) p q ∧ Combines (cand 1) (rp s) ((q - rq s) % q) p q
    ∧ Combines (cand 2) ((p - rp s) % p) (rq s) p q ∧ Combines (cand 3) ((p - rp s) % p) ((q - rq s) % q) p q

/-- The positions of the candidates in range (R88). -/
def inRange (cand : Fin 4 → Nat) : Finset (Fin 4) := Finset.univ.filter fun k => cand k ≤ 26

/-- Whether error code `code` applies to command `i` on the latch's operands (60_exceptions.md R96 to R100). -/
def Applies (i : Instr) (s : State) (code : Nat) : Prop :=
  let a := uval s.sa
  let m := uval s.sm
  let q := uval s.sq
  match code with
  | 2 => (i ∈ [Instr.modpow, .sqr, .modinv, .crt, .roots, .decrypt] ∧ m = 0)
      ∨ (i ∈ [Instr.crt, .roots, .decrypt] ∧ q = 0)
  | 3 => i ∈ [Instr.crt, .roots, .decrypt] ∧ m ≠ 0 ∧ q ≠ 0 ∧ 2 ^ s.width ≤ m * q
  | 4 => i ∈ [Instr.roots, .decrypt] ∧ m * q ≤ a
  | 5 => (i = .modinv ∧ Nat.gcd a m ≠ 1) ∨ (i ∈ [Instr.crt, .roots, .decrypt] ∧ Nat.gcd m q ≠ 1)
  | 6 => i = .decrypt ∧ ChecksPass s ∧ ∀ cand, CandidatesAre s cand → ∀ k, 26 < cand k
  | _ => False

/-- The result registers a success of each command writes (30_encoding.md R65). -/
def writes : Instr → List DataReg
  | .modpow => [.res0]
  | .sqr => [.res0]
  | .egcd => [.res0, .res1, .res2]
  | .modinv => [.res0]
  | .crt => [.res0]
  | .roots => [.res0, .res1, .res2, .res3, .res4, .res5]
  | .decrypt => [.res0, .res1, .res2]

/-- The outcome of the command in the latch, if it holds one (00_scope.md R14). -/
def latchedOutcome (s : State) : Option CmdOutcome :=
  (decodeOpcode s.lop).map fun i => cmdOutcome i s.width s.operands

/-- Two states a Host cannot tell apart: they differ at most in the Engine latch. -/
def SameButLatch (s t : State) : Prop :=
  t.width = s.width ∧ (∀ r, t.x r = s.x r) ∧ t.status = s.status ∧ t.turns = s.turns ∧ t.replies = s.replies

end Sys2Proof.Claims

open Sys2Proof Sys2Proof.Machine Sys2Proof.Safety Sys2Proof.Claims

/-! Encoding -/

/-- R60: the seven opcodes' words, and the reserved opcodes. -/
def Obligations.OpcodeTableDecodes : Prop :=
  decode 0x00000001#32 = .ok .modpow ∧ decode 0x00000002#32 = .ok .sqr ∧ decode 0x00000003#32 = .ok .egcd
    ∧ decode 0x00000004#32 = .ok .modinv ∧ decode 0x00000005#32 = .ok .crt ∧ decode 0x00000006#32 = .ok .roots
    ∧ decode 0x00000007#32 = .ok .decrypt
    ∧ ∀ op ∈ [0x0, 0x8, 0x9, 0xA, 0xB, 0xC, 0xD, 0xE, 0xF], decode (BitVec.ofNat 32 op) = .error .reservedOpcode

/-- R59: a word is a command exactly when it is legal; an illegal word written while idle ends at once with code 1, and any
word written while busy is discarded. -/
def Obligations.LegalWordsAreTheCommands : Prop :=
  ∀ w : BitVec 32,
    ((∃ i, decode w = .ok i) ↔ Legal w)
    ∧ (∀ s : State, s.status.busy = false → ¬ Legal w →
        ∃ t, s.hostWrite 0 ⟨32, w⟩ = .next t ∧ ReportedIllegal s t (w.extractLsb 3 0))
    ∧ (∀ s : State, s.status.busy = true → ∃ t, s.hostWrite 0 ⟨32, w⟩ = .next t ∧ Overran s t)

/-- R60: a word decodes to an instruction exactly when all its 32 bits are those of the instruction's word (the mask
0xFFFFFFFF), and the seven words. -/
def Obligations.DecodeInvertsEncode : Prop :=
  (∀ (w : BitVec 32) (i : Instr), decode w = .ok i ↔ w = encode i)
  ∧ encode .modpow = 0x00000001#32 ∧ encode .sqr = 0x00000002#32 ∧ encode .egcd = 0x00000003#32
  ∧ encode .modinv = 0x00000004#32 ∧ encode .crt = 0x00000005#32 ∧ encode .roots = 0x00000006#32
  ∧ encode .decrypt = 0x00000007#32

/-! The CMD write -/

/-- R33. -/
def Obligations.AcceptTakesTheSnapshot : Prop :=
  ∀ (s : State) (w : BitVec 32), s.status.busy = false → Legal w →
    ∃ t, s.hostWrite 0 ⟨32, w⟩ = .next t ∧ Accepted s t (w.extractLsb 3 0)

/-- R34. -/
def Obligations.IllegalWordReportsAtOnce : Prop :=
  ∀ (s : State) (w : BitVec 32), s.status.busy = false → ¬ Legal w →
    ∃ t, s.hostWrite 0 ⟨32, w⟩ = .next t ∧ ReportedIllegal s t (w.extractLsb 3 0) ∧ t.status.busy = false

/-- R35: the one change is OVR, and the running command goes on with its latch. -/
def Obligations.CommandWriteWhileBusySetsOvrOnly : Prop :=
  ∀ (s : State) (w : BitVec 32), s.status.busy = true →
    ∃ t, s.hostWrite 0 ⟨32, w⟩ = .next t ∧ Overran s t

/-! The register space -/

/-- R42, as a step: the Host gets the slot's value, and nothing else changes but that the read has been made. -/
def Obligations.HostReadReturnsTheSlot : Prop :=
  ∀ (s : State) (i : BitVec 4) (ts : List Turn), s.turns = .read i :: ts →
    ∃ v, step s = .next { s with turns := ts, replies := s.replies ++ [⟨i, v⟩] }
      ∧ (i ∈ [0#4, 3#4, 14#4, 15#4] → v = ⟨32, 0⟩)
      ∧ (i = 1 → v = ⟨32, s.status.word⟩)
      ∧ (i = 2 → v = ⟨32, s.cfg⟩)
      ∧ (∀ r, i = slotOf r → v = ⟨s.width, s.data r⟩)

/-- R41: what a Host write of the slot's width does, slot by slot. -/
def Obligations.HostWriteActsOnItsSlot : Prop :=
  ∀ (s : State),
    (∀ w : BitVec 32, ∃ t, s.hostWrite 0 ⟨32, w⟩ = .next t
      ∧ (s.status.busy = false → Legal w → Accepted s t (w.extractLsb 3 0))
      ∧ (s.status.busy = false → ¬ Legal w → ReportedIllegal s t (w.extractLsb 3 0))
      ∧ (s.status.busy = true → Overran s t))
    ∧ (∀ v : BitVec 32, ∃ t, s.hostWrite 1 ⟨32, v⟩ = .next t ∧ FrameExcept s t []
      ∧ t.status.done = (if v.getLsbD 1 then false else s.status.done)
      ∧ t.status.err = (if v.getLsbD 2 then false else s.status.err)
      ∧ t.status.errcode = (if v.getLsbD 2 then 0 else s.status.errcode)
      ∧ t.status.multi = (if v.getLsbD 3 then false else s.status.multi)
      ∧ t.status.ovr = (if v.getLsbD 4 then false else s.status.ovr)
      ∧ t.status.busy = s.status.busy ∧ t.status.lastop = s.status.lastop)
    ∧ (∀ r ∈ [DataReg.opa, .opb, .opm, .opq], ∀ v : BitVec s.width, ∃ t, s.hostWrite (slotOf r) ⟨s.width, v⟩ = .next t
      ∧ t.x r = uval v ∧ FrameExcept s t [r] ∧ t.status = s.status)
    ∧ (∀ i ∈ [2#4, 3#4, 14#4, 15#4], ∀ v : BitVec 32, s.hostWrite i ⟨32, v⟩ = .next s)
    ∧ (∀ r ∈ results, ∀ v : BitVec s.width, s.hostWrite (slotOf r) ⟨s.width, v⟩ = .next s)

/-- R43: an access moves the whole slot, and a value of another width is refused, whatever the slot. -/
def Obligations.WrongWidthIsRefused : Prop :=
  ∀ (s : State) (i : BitVec 4),
    (s.hostRead i).width = (if 4 ≤ i.toNat ∧ i.toNat ≤ 13 then s.width else 32)
    ∧ ∀ v : Datum,
      (s.hostWrite i v = .refused .wrongWidth ↔ v.width ≠ if 4 ≤ i.toNat ∧ i.toNat ≤ 13 then s.width else 32)
      ∧ ((v.width = if 4 ≤ i.toNat ∧ i.toNat ≤ 13 then s.width else 32) → ∃ t, s.hostWrite i v = .next t)

/-- R47: no read has a side effect; a write reaches beyond its own slot only at slots 0 and 1, and at slot 1 only STATUS. -/
def Obligations.SideEffectsAreAtSlotsZeroAndOne : Prop :=
  ∀ (s t : State) (i : BitVec 4),
    (s.nextTurn = .read i → step s = .next t →
      ∃ reply, FrameExcept s { t with turns := s.turns, replies := s.replies } []
        ∧ t.status = s.status ∧ t.turns = s.turns.tail ∧ t.replies = s.replies ++ [reply])
    ∧ ∀ v : Datum, s.hostWrite i v = .next t →
      (i = 1 → FrameExcept s t [])
      ∧ (∀ r, i = slotOf r → FrameExcept s t [r] ∧ t.status = s.status)
      ∧ (i ∈ [2#4, 3#4, 8#4, 9#4, 10#4, 11#4, 12#4, 13#4, 14#4, 15#4] → t = s)

/-- R48: reads and writes repeat without effect, but for a legal word written to slot 0: again while BUSY it sets OVR, again
after the completion it starts a second command. -/
def Obligations.RepeatedAccesses : Prop :=
  ∀ (s t : State) (i : BitVec 4),
    ((s.readTurn i).hostRead i = s.hostRead i)
    ∧ (∀ v : Datum, i ≠ 0 → s.hostWrite i v = .next t → t.hostWrite i v = .next t)
    ∧ (∀ w : BitVec 32, s.status.busy = false → Legal w → s.hostWrite 0 ⟨32, w⟩ = .next t →
        (∃ u, t.hostWrite 0 ⟨32, w⟩ = .next u ∧ u.status.ovr = true ∧ u.status.busy = true)
        ∧ ∀ j u, exec j t = .next u → ∃ v, u.hostWrite 0 ⟨32, w⟩ = .next v ∧ v.status.busy = true)

/-- R22 and R30: where each field stands in the STATUS word a read of slot 1 returns, its access, its reset value; the
reserved bits read 0, and writing them, or the read-only fields, changes nothing. -/
def Obligations.StatusWordLayout : Prop :=
  (∀ st : Status,
    st.word.getLsbD 0 = st.busy ∧ st.word.getLsbD 1 = st.done ∧ st.word.getLsbD 2 = st.err
      ∧ st.word.getLsbD 3 = st.multi ∧ st.word.getLsbD 4 = st.ovr ∧ st.word.extractLsb 7 5 = 0
      ∧ st.word.extractLsb 11 8 = st.errcode ∧ st.word.extractLsb 15 12 = 0 ∧ st.word.extractLsb 19 16 = st.lastop
      ∧ st.word.extractLsb 31 20 = 0)
  ∧ (∀ (s : State) (v : BitVec 32), ∃ t, s.hostWrite 1 ⟨32, v⟩ = .next t
      ∧ t.status.busy = s.status.busy ∧ t.status.lastop = s.status.lastop
      ∧ t.status.done = (s.status.done && !v.getLsbD 1) ∧ t.status.err = (s.status.err && !v.getLsbD 2)
      ∧ t.status.multi = (s.status.multi && !v.getLsbD 3) ∧ t.status.ovr = (s.status.ovr && !v.getLsbD 4)
      ∧ (v.getLsbD 2 = false → t.status.errcode = s.status.errcode)
      ∧ s.hostWrite 1 ⟨32, v &&& 0x1E⟩ = .next t)
  ∧ ∀ w, (State.resetAt w).status.word = 0

/-- R31: CFG's bits, that writes to it are ignored, and that no step, reset included, changes it. -/
def Obligations.CfgIsConstant : Prop :=
  ∀ s : State,
    s.cfg.extractLsb 15 0 = enc 16 s.width ∧ s.cfg.extractLsb 31 16 = 0
    ∧ (∀ v : BitVec 32, s.hostWrite 2 ⟨32, v⟩ = .next s)
    ∧ ∀ t, step s = .next t → t.cfg = s.cfg ∧ t.width = s.width

/-! What each step does to each part of the state -/

/-- R23: BUSY rises at the accept of a legal word and falls at a completion or a reset; no other step writes it. -/
def Obligations.BusyIsWrittenByAcceptCompletionAndReset : Prop :=
  ∀ s t : State, step s = .next t →
    t.status.busy = match s.nextTurn with
      | .read _ => s.status.busy
      | .reset => false
      | .engine => false
      | .write i v => if i = 0 then s.status.busy || wordWellFormed (v.bits.setWidth 32) else s.status.busy

/-- R24: DONE. -/
def Obligations.DoneIsSetByCompletionAndIllegalWord : Prop :=
  ∀ s t : State, step s = .next t →
    t.status.done = match s.nextTurn with
      | .read _ => s.status.done
      | .reset => false
      | .engine => s.status.busy || s.status.done
      | .write i v =>
        if i = 0 then (if s.status.busy then s.status.done else !wordWellFormed (v.bits.setWidth 32))
        else if i = 1 then s.status.done && !v.bits.getLsbD 1
        else s.status.done

/-- R25 and R26: ERR with ERRCODE, on every step; and a step keeps ERRCODE 0 while ERR = 0. -/
def Obligations.ErrAndErrcodeAreWrittenTogether : Prop :=
  ∀ s t : State, step s = .next t →
    ((s.status.err = false → s.status.errcode = 0) → t.status.err = false → t.status.errcode = 0)
    ∧ (t.status.err, t.status.errcode) = match s.nextTurn with
      | .read _ => (s.status.err, s.status.errcode)
      | .reset => (false, 0)
      | .engine =>
        if s.status.busy then
          match latchedOutcome s with
          | some (.error c) => (true, c.code)
          | some (.ok _) => (false, 0)
          | none => (s.status.err, s.status.errcode)
        else (s.status.err, s.status.errcode)
      | .write i v =>
        if i = 0 then
          if s.status.busy then (s.status.err, s.status.errcode)
          else if wordWellFormed (v.bits.setWidth 32) then (false, 0)
          else (true, 1)
        else if i = 1 ∧ v.bits.getLsbD 2 then (false, 0)
        else (s.status.err, s.status.errcode)

/-- R27: MULTI is set by a successful DECRYPT whose in-range candidates hold two distinct values, and cleared by every other
completion, by an accept, by an illegal word, by writing its bit, and by reset. -/
def Obligations.MultiIsSetByAMultiHitAlone : Prop :=
  ∀ s t : State, step s = .next t →
    (s.nextTurn = .engine → s.status.busy = true →
      (t.status.multi = true ↔
        s.lop = 7 ∧ ChecksPass s ∧ ∃ cand, CandidatesAre s cand ∧ 2 ≤ ((inRange cand).image cand).card))
    ∧ ((s.nextTurn = .engine → s.status.busy = false) →
      t.status.multi = match s.nextTurn with
        | .read _ => s.status.multi
        | .reset => false
        | .engine => s.status.multi
        | .write i v =>
          if i = 0 then s.status.busy && s.status.multi
          else if i = 1 then s.status.multi && !v.bits.getLsbD 3
          else s.status.multi)

/-- R28: OVR. -/
def Obligations.OvrIsSetByAnOverrunAlone : Prop :=
  ∀ s t : State, step s = .next t →
    t.status.ovr = match s.nextTurn with
      | .read _ => s.status.ovr
      | .reset => false
      | .engine => s.status.ovr
      | .write i v =>
        if i = 0 then s.status.busy || s.status.ovr
        else if i = 1 then s.status.ovr && !v.bits.getLsbD 4
        else s.status.ovr

/-- R29: LASTOP. -/
def Obligations.LastopIsTheWordTakenWhileIdle : Prop :=
  ∀ s t : State, step s = .next t →
    t.status.lastop = match s.nextTurn with
      | .read _ => s.status.lastop
      | .reset => 0
      | .engine => s.status.lastop
      | .write i v => if i = 0 ∧ s.status.busy = false then v.bits.extractLsb' 0 4 else s.status.lastop

/-- R17: an operand register changes by a Host write to its slot, whole and at once, or by reset, and a read of its slot
returns it; a write to it leaves the running command's snapshot alone. -/
def Obligations.OperandRegistersFollowTheHost : Prop :=
  ∀ r ∈ [DataReg.opa, .opb, .opm, .opq],
    (∀ s : State, s.hostRead (slotOf r) = ⟨s.width, s.data r⟩ ∧ s.x r < 2 ^ s.width)
    ∧ ∀ s t : State, step s = .next t →
      (t.x r = match s.nextTurn with
        | .read _ => s.x r
        | .reset => 0
        | .engine => s.x r
        | .write i v => if i = slotOf r then uval v.bits else s.x r)
      ∧ ∀ v, s.nextTurn = .write (slotOf r) v → t.lop = s.lop ∧ t.operands = s.operands ∧ t.status = s.status

/-- R18: a result register changes only by an `Ok` completion of a command that names it, or by reset; an `Ok` completion
writes exactly the registers its command names, with the named values; and a read of its slot, at any time, returns it. -/
def Obligations.ResultRegistersFollowTheCompletions : Prop :=
  ∀ r ∈ results,
    (∀ s : State, s.hostRead (slotOf r) = ⟨s.width, s.data r⟩)
    ∧ ∀ s t : State, step s = .next t →
      (s.nextTurn = .reset → t.x r = 0)
      ∧ (s.nextTurn ≠ .reset →
        (s.nextTurn = .engine ∧ s.status.busy = true ∧ t.status.err = false
          ∧ ∃ i, decodeOpcode s.lop = some i ∧ r ∈ writes i)
        ∨ t.x r = s.x r)
      ∧ ∀ i o, s.nextTurn = .engine → s.status.busy = true → decodeOpcode s.lop = some i →
        cmdOutcome i s.width s.operands = .ok o →
          ((named o r).isSome = true ↔ r ∈ writes i)
          ∧ t.x r = match named o r with
            | some v => uval (v.bits s.width)
            | none => s.x r

/-- R32: the latch is written only by an accept (and by reset, R39), no read of the Host returns any of it, and no step but
a completion depends on it: two states that differ in the latch alone step to states that do, and to equal latches where
the step starts a command. -/
def Obligations.LatchIsWrittenByAcceptAndReadByCompletion : Prop :=
  (∀ s t : State, step s = .next t →
    (t.lop, t.operands) = match s.nextTurn with
      | .read _ => (s.lop, s.operands)
      | .reset => (0, { a := 0, b := 0, m := 0, q := 0 })
      | .engine => (s.lop, s.operands)
      | .write i v =>
        if i = 0 ∧ s.status.busy = false ∧ wordWellFormed (v.bits.setWidth 32) = true then
          (v.bits.extractLsb' 0 4, { a := s.x .opa, b := s.x .opb, m := s.x .opm, q := s.x .opq })
        else (s.lop, s.operands))
  ∧ (∀ (s : State) (i : BitVec 4) (lop : BitVec 4) (sa sb sm sq : BitVec s.width),
      State.hostRead { s with lop := lop, sa := sa, sb := sb, sm := sm, sq := sq } i = s.hostRead i)
  ∧ ∀ (s t : State) (lop : BitVec 4) (sa sb sm sq : BitVec s.width),
      ¬ (s.nextTurn = .engine ∧ s.status.busy = true) → step s = .next t →
      ∃ t', step { s with lop := lop, sa := sa, sb := sb, sm := sm, sq := sq } = .next t' ∧ SameButLatch t t'
        ∧ (s.status.busy = false → t.status.busy = true → t'.lop = t.lop ∧ t'.operands = t.operands)

/-! Reset -/

/-- R39, for a unit of any width. -/
def Obligations.ResetLeavesTheResetValues : Prop :=
  ∀ w : Nat,
    (∀ r, (State.resetAt w).x r = 0) ∧ (State.resetAt w).status.word = 0x00000000#32
    ∧ (State.resetAt w).cfg = (enc 16 w).setWidth 32 ∧ (State.resetAt w).lop = 0
    ∧ (State.resetAt w).operands = { a := 0, b := 0, m := 0, q := 0 }
    ∧ (State.resetAt w).hostRead 0 = ⟨32, 0⟩

/-- R115 and R116: a reset, at any time, is one step to the reset values with CFG kept; a running command never completes
(the Engine's turn then changes nothing); and BUSY = 0 with DONE = 0 is what no completion leaves. -/
def Obligations.ResetAbandonsTheRunningCommand : Prop :=
  (∀ (s : State) (ts : List Turn), s.turns = .reset :: ts →
    ∃ t, step s = .next t ∧ t = { State.resetAt s.width with turns := ts, replies := s.replies } ∧ t.cfg = s.cfg
      ∧ t.status.busy = false ∧ t.status.done = false ∧ (t.nextTurn = .engine → step t = .next t.popTurn))
  ∧ ∀ (i : Instr) (s t : State), exec i s = .next t → t.status.busy = false ∧ t.status.done = true

/-- R118, its last sentence: with the reset value 0 in every operand, every command but EGCD ends with MODULUS_ZERO, and
EGCD gives `(0, 1, 0)`, at every width of R6. -/
def Obligations.ResetOperandsGiveModulusZero : Prop :=
  ∀ w, widthWellFormed w = true → ∀ i : Instr,
    (i ≠ .egcd → Fails i ((State.resetAt w).accept (encodeOpcode i)) 2)
    ∧ (i = .egcd → Succeeds i ((State.resetAt w).accept (encodeOpcode i)) [.res0, .res1, .res2] false fun t =>
        t.x .res0 = 0 ∧ sval t.res1 = 1 ∧ sval t.res2 = 0)

/-! The commands -/

/-- R76: MODPOW, from every state. The corner cases are values of the formula (`0^0 = 1`, a modulus of 1, a base not
reduced). -/
def Obligations.ModpowGivesThePower : Prop :=
  decode 0x00000001#32 = .ok .modpow
  ∧ ∀ s : State,
    (uval s.sm = 0 → Fails .modpow s 2)
    ∧ (uval s.sm ≠ 0 → Succeeds .modpow s [.res0] false fun t =>
        t.x .res0 = uval s.sa ^ uval s.sb % uval s.sm)

/-- R80: SQR, from every state: the exact square, any symbol, equal to MODPOW with exponent 2. -/
def Obligations.SqrGivesTheSquare : Prop :=
  decode 0x00000002#32 = .ok .sqr
  ∧ ∀ s : State,
    (uval s.sm = 0 → Fails .sqr s 2)
    ∧ (uval s.sm ≠ 0 → Succeeds .sqr s [.res0] false fun t =>
        t.x .res0 = uval s.sa * uval s.sa % uval s.sm)
    ∧ (uval s.sb = 2 → exec .sqr s = exec .modpow s)

/-- R77: EGCD completes without error on all operands, with the triple of R71 read back whole from its registers. -/
def Obligations.EgcdGivesTheTriple : Prop :=
  decode 0x00000003#32 = .ok .egcd
  ∧ (∀ s : State, widthWellFormed s.width = true →
    Succeeds .egcd s [.res0, .res1, .res2] false fun t =>
      (t.x .res0, sval t.res1, sval t.res2) = egcd (uval s.sa) (uval s.sb))
  ∧ egcd 0 0 = (0, 1, 0) ∧ (∀ a, egcd a 0 = (a, 1, 0)) ∧ (∀ b, 0 < b → egcd 0 b = (b, 0, 1))
  ∧ (∀ a, 0 < a → egcd a a = (a, 0, 1))
  ∧ ∀ a b, a < b → egcd a b = ((egcd b a).1, (egcd b a).2.2, (egcd b a).2.1)

/-- R71: the terminal case, the recursion, and the contract. -/
def Obligations.EgcdFollowsTheRecursion : Prop :=
  ∀ a b : Nat,
    egcd a 0 = (a, 1, 0)
    ∧ (b ≠ 0 → egcd a b =
        ((egcd b (a % b)).1, (egcd b (a % b)).2.2, (egcd b (a % b)).2.1 - (a / b : Nat) * (egcd b (a % b)).2.2))
    ∧ (a : Int) * (egcd a b).2.1 + b * (egcd a b).2.2 = (egcd a b).1
    ∧ (egcd a b).1 = Nat.gcd a b

/-- R72: the standard bound, the bound it gives for `W`-bit operands, that both coefficients then survive the register, that
EGCD never faults at a width of R6, and that it faults rather than truncate should the bound fail. -/
def Obligations.CoefficientsFitTheRegister : Prop :=
  (∀ a b : Nat, (egcd a b).2.1.natAbs ≤ max 1 (b / (2 * (egcd a b).1))
    ∧ (egcd a b).2.2.natAbs ≤ max 1 (a / (2 * (egcd a b).1)))
  ∧ (∀ W a b : Nat, widthWellFormed W = true → a < 2 ^ W → b < 2 ^ W →
      (egcd a b).2.1.natAbs ≤ 2 ^ (W - 1) - 1 ∧ (egcd a b).2.2.natAbs ≤ 2 ^ (W - 1) - 1
      ∧ sval (tc W (egcd a b).2.1) = (egcd a b).2.1 ∧ sval (tc W (egcd a b).2.2) = (egcd a b).2.2)
  ∧ (∀ s : State, widthWellFormed s.width = true → ∃ t, exec .egcd s = .next t)
  ∧ ∀ s : State, ¬ ((egcd (uval s.sa) (uval s.sb)).2.1.natAbs ≤ 2 ^ (s.width - 1) - 1
      ∧ (egcd (uval s.sa) (uval s.sb)).2.2.natAbs ≤ 2 ^ (s.width - 1) - 1) →
      exec .egcd s = .fault .bezoutOutOfRange

/-- R78: MODINV, from every state. -/
def Obligations.ModinvGivesTheInverse : Prop :=
  decode 0x00000004#32 = .ok .modinv
  ∧ ∀ s : State,
    (uval s.sm = 0 → Fails .modinv s 2)
    ∧ (uval s.sm ≠ 0 → Nat.gcd (uval s.sa) (uval s.sm) ≠ 1 → Fails .modinv s 5)
    ∧ (uval s.sm ≠ 0 → Nat.gcd (uval s.sa) (uval s.sm) = 1 → Succeeds .modinv s [.res0] false fun t =>
        t.x .res0 < uval s.sm ∧ uval s.sa * t.x .res0 % uval s.sm = 1 % uval s.sm)

/-- R73: the inverse is the coefficient of R71 reduced to `[0, m)`, is the only number there with the congruence, and is the
same for every coefficient pair; without one, NO_INVERSE. -/
def Obligations.InverseIsUniqueAndIndependentOfThePair : Prop :=
  ∀ a m : Nat, 0 < m →
    (Nat.gcd a m ≠ 1 → inv a m = .error .noInverse)
    ∧ (Nat.gcd a m = 1 → ∃ r, inv a m = .ok r ∧ r < m ∧ a * r % m = 1 % m
        ∧ (r : Int) = (egcd a m).2.1 % m
        ∧ (∀ x, x < m → a * x % m = 1 % m → x = r)
        ∧ (∀ x y : Int, a * x + m * y = 1 → (r : Int) = x % m)
        ∧ (m = 1 → r = 0))

/-- R79: CRT, from every state. The result is the source's formula for the two inverses. -/
def Obligations.CrtGivesTheCombination : Prop :=
  decode 0x00000005#32 = .ok .crt
  ∧ ∀ s : State,
    let p := uval s.sm
    let q := uval s.sq
    (p = 0 ∨ q = 0 → Fails .crt s 2)
    ∧ (p ≠ 0 → q ≠ 0 → 2 ^ s.width ≤ p * q → Fails .crt s 3)
    ∧ (p ≠ 0 → q ≠ 0 → p * q < 2 ^ s.width → Nat.gcd p q ≠ 1 → Fails .crt s 5)
    ∧ (p ≠ 0 → q ≠ 0 → p * q < 2 ^ s.width → Nat.gcd p q = 1 → Succeeds .crt s [.res0] false fun t =>
        Combines (t.x .res0) (uval s.sa) (uval s.sb) p q
        ∧ ∃ u v, inv q p = .ok u ∧ inv p q = .ok v
          ∧ t.x .res0 = (uval s.sa * q * u + uval s.sb * p * v) % (p * q))

/-- R74 and R75: the formula, NO_INVERSE without coprimality, the unique combination, and the dependence on residues only,
for every integer multiple. -/
def Obligations.CrtIsTheUniqueCombination : Prop :=
  ∀ a1 a2 p q : Nat, 0 < p → 0 < q →
    (Nat.gcd p q ≠ 1 → crt a1 a2 p q = .error .noInverse)
    ∧ (Nat.gcd p q = 1 → ∃ x u v, crt a1 a2 p q = .ok x ∧ inv q p = .ok u ∧ inv p q = .ok v
      ∧ x = (a1 * q * u + a2 * p * v) % (p * q)
      ∧ Combines x a1 a2 p q ∧ (∀ y, Combines y a1 a2 p q → y = x)
      ∧ ∀ k : Int, (((a1 : Int) + k * p) * q * u + a2 * p * v) % (p * q) = x
        ∧ ((a1 : Int) * q * u + (a2 + k * q) * p * v) % (p * q) = x)

/-- R82: the checks of ROOTS and of DECRYPT, in their order. -/
def Obligations.RootCommandsCheckTheirInputsInOrder : Prop :=
  ∀ i ∈ [Instr.roots, .decrypt], ∀ s : State, ChecksInOrder i s

/-- R83, R86 and R87: ROOTS checks its inputs, and gives the half-roots of the source's formula, for every `p` and `q`, and
the four candidates in the fixed order. -/
def Obligations.RootsGivesTheFourCandidates : Prop :=
  decode 0x00000006#32 = .ok .roots
  ∧ ∀ s : State, ChecksInOrder .roots s ∧ (ChecksPass s →
    Succeeds .roots s [.res0, .res1, .res2, .res3, .res4, .res5] false fun t =>
      CandidatesAre s ![t.x .res0, t.x .res1, t.x .res2, t.x .res3]
      ∧ t.x .res4 = rp s ∧ t.x .res5 = rq s ∧ rp s < uval s.sm ∧ rq s < uval s.sq
      ∧ crt (rp s) (rq s) (uval s.sm) (uval s.sq) = .ok (t.x .res0)
      ∧ crt (rp s) ((uval s.sq - rq s) % uval s.sq) (uval s.sm) (uval s.sq) = .ok (t.x .res1)
      ∧ crt ((uval s.sm - rp s) % uval s.sm) (rq s) (uval s.sm) (uval s.sq) = .ok (t.x .res2)
      ∧ crt ((uval s.sm - rp s) % uval s.sm) ((uval s.sq - rq s) % uval s.sq) (uval s.sm) (uval s.sq)
          = .ok (t.x .res3)
      ∧ (rp s = 0 → t.x .res0 = t.x .res2 ∧ t.x .res1 = t.x .res3))

/-- R85: for a prime `3 mod 4` and a quadratic residue the half-root squares to `c`; and where both half-roots do, so does
every candidate. -/
def Obligations.CandidatesAreSquareRoots : Prop :=
  (∀ c p : Nat, p.Prime → p % 4 = 3 → (∃ y, y * y % p = c % p) →
    halfRoot c p = c ^ ((p + 1) / 4) % p ∧ halfRoot c p * halfRoot c p % p = c % p)
  ∧ ∀ s : State, ChecksPass s → rp s * rp s % uval s.sm = uval s.sa % uval s.sm →
      rq s * rq s % uval s.sq = uval s.sa % uval s.sq →
      ∃ t, exec .roots s = .next t ∧ t.status.err = false
        ∧ ∀ r ∈ [DataReg.res0, .res1, .res2, .res3], t.x r * t.x r % (uval s.sm * uval s.sq) = uval s.sa

/-- R88, R89 and R90: DECRYPT checks its inputs, returns the first candidate in range, its position and the number of hits, sets MULTI exactly
when the in-range candidates hold two distinct values, and ends with NO_VALID_ROOT when none is in range. -/
def Obligations.DecryptReturnsTheFirstCandidateInRange : Prop :=
  decode 0x00000007#32 = .ok .decrypt
  ∧ ∀ s : State, ChecksInOrder .decrypt s ∧ (widthWellFormed s.width = true → ChecksPass s →
    ∃ cand, CandidatesAre s cand
      ∧ (inRange cand = ∅ → Fails .decrypt s 6)
      ∧ ∀ k ∈ inRange cand, (∀ j, j < k → j ∉ inRange cand) →
          Succeeds .decrypt s [.res0, .res1, .res2] (decide (2 ≤ ((inRange cand).image cand).card)) fun t =>
            t.x .res0 = cand k ∧ t.x .res1 = k.val ∧ t.x .res2 = (inRange cand).card)

/-- R92: ROOTS and DECRYPT are functions of `c`, `p`, `q`, and of `W` through the OPERAND_RANGE check alone. -/
def Obligations.RootCommandsAreDeterministic : Prop :=
  ∀ i ∈ [Instr.roots, .decrypt], ∀ s t : State,
    widthWellFormed s.width = true → widthWellFormed t.width = true →
    uval s.sa = uval t.sa → uval s.sm = uval t.sm → uval s.sq = uval t.sq →
    (2 ^ s.width ≤ uval s.sm * uval s.sq ↔ 2 ^ t.width ≤ uval t.sm * uval t.sq) →
    ∃ s' t', exec i s = .next s' ∧ exec i t = .next t' ∧ s'.status.err = t'.status.err
      ∧ s'.status.errcode = t'.status.errcode ∧ s'.status.multi = t'.status.multi
      ∧ (s'.status.err = false → ∀ r ∈ writes i, s'.x r = t'.x r)

/-- R93: for distinct primes `3 mod 4` the symbol is among the candidates of its own square, and DECRYPT returns it exactly
when it is the first of them in range, so whenever it is the only value in `[0, 26]` with that square; under `n = 77`, 3 and 25 share the square 9, and DECRYPT
of 9 returns 25. -/
def Obligations.RoundTripUnderAUniqueRoot : Prop :=
  (∀ (s : State) (symbol : Nat), widthWellFormed s.width = true →
    (uval s.sm).Prime → (uval s.sq).Prime → uval s.sm ≠ uval s.sq → uval s.sm % 4 = 3 → uval s.sq % 4 = 3 →
    26 < uval s.sm * uval s.sq → uval s.sm * uval s.sq < 2 ^ s.width → symbol ≤ 26 →
    uval s.sa = symbol * symbol % (uval s.sm * uval s.sq) →
    ∃ t u, exec .roots s = .next t ∧ t.status.err = false ∧ exec .decrypt s = .next u ∧ u.status.err = false
      ∧ symbol ∈ [t.x .res0, t.x .res1, t.x .res2, t.x .res3]
      ∧ (u.x .res0 = symbol ↔ [t.x .res0, t.x .res1, t.x .res2, t.x .res3].find? (· ≤ 26) = some symbol)
      ∧ ((∀ v, v ≤ 26 → v * v % (uval s.sm * uval s.sq) = uval s.sa → v = symbol) → u.x .res0 = symbol))
  ∧ 3 * 3 % 77 = 9 ∧ 25 * 25 % 77 = 9
  ∧ ∀ s : State, widthWellFormed s.width = true → uval s.sa = 9 → uval s.sm = 7 → uval s.sq = 11 →
      ∃ u, exec .decrypt s = .next u ∧ u.status.err = false ∧ u.x .res0 = 25

/-! Errors -/

/-- R96 to R100 and R102: a command that completes reports the lowest error code that applies to it, and no error
when none applies. -/
def Obligations.TheLowestErrorThatAppliesIsReported : Prop :=
  ∀ (i : Instr) (s t : State), exec i s = .next t →
    (t.status.err = false → t.status.errcode = 0 ∧ ∀ code, ¬ Applies i s code)
    ∧ (t.status.err = true → Applies i s t.status.errcode.toNat
        ∧ ∀ code, code < t.status.errcode.toNat → ¬ Applies i s code)

/-- R104: an error writes STATUS alone: ERR, the code, MULTI = 0, DONE = 1, BUSY = 0. -/
def Obligations.ErrorsArePrecise : Prop :=
  ∀ (i : Instr) (s t : State), exec i s = .next t → t.status.err = true →
    FrameExcept s t [] ∧ StatusErr s t t.status.errcode ∧ 2 ≤ t.status.errcode.toNat ∧ t.status.errcode.toNat ≤ 6

/-- 30_encoding.md, result placement: a success of each of the seven commands writes no data register but those of its row,
MULTI is 0 but for DECRYPT, and everything else is as it was. -/
def Obligations.SuccessWritesItsRegistersOnly : Prop :=
  ∀ (i : Instr) (s t : State), exec i s = .next t → t.status.err = false →
    FrameExcept s t (writes i) ∧ StatusOk s t t.status.multi ∧ (i ≠ .decrypt → t.status.multi = false)

/-- R105: after an error the next legal word is accepted and clears ERR and ERRCODE, and so does a write of STATUS with
bit 2 = 1. -/
def Obligations.AnErrorDoesNotBlockTheUnit : Prop :=
  ∀ (i : Instr) (s t : State), exec i s = .next t → t.status.err = true →
    (∀ w : BitVec 32, Legal w → ∃ u, t.hostWrite 0 ⟨32, w⟩ = .next u ∧ Accepted t u (w.extractLsb 3 0))
    ∧ ∀ v : BitVec 32, v.getLsbD 2 = true →
      ∃ u, t.hostWrite 1 ⟨32, v⟩ = .next u ∧ u.status.err = false ∧ u.status.errcode = 0

/-! The step and runs -/

/-- What a step does: the Engine's turn with BUSY = 1 runs the command in the latch, on the state with that turn taken off;
with BUSY = 0 it changes nothing else; a Host access or a reset is that access or reset. With no turn to come the Engine
moves (log entry 2). -/
def Obligations.StepRunsTheLatchedCommand : Prop :=
  ∀ s : State,
    (∀ i, s.nextTurn = .engine → s.status.busy = true → decodeOpcode s.lop = some i → step s = exec i s.popTurn)
    ∧ (s.nextTurn = .engine → s.status.busy = false → step s = .next s.popTurn)
    ∧ (∀ i, s.nextTurn = .read i → step s = .next (s.popTurn.readTurn i))
    ∧ (∀ i v, s.nextTurn = .write i v → step s = s.popTurn.hostWrite i v)
    ∧ (s.nextTurn = .reset → step s = .next s.popTurn.applyReset)

/-- A command word placed by `withFetchWord` is what the very next step runs, on the snapshot of the operand registers. -/
def Obligations.PlacedWordRunsNext : Prop :=
  ∀ (s : State) (i : Instr),
    decodeTableWord 32 (encode i).toNat = some i
    ∧ step (s.withFetchWord 32 (encode i).toNat) = exec i (s.accept (encodeOpcode i))

/-- R53: an operand write after the accept changes nothing the completion does, whichever comes first, and the next accept
takes the written value. -/
def Obligations.OperandWritesLeaveTheRunningCommandAlone : Prop :=
  ∀ (s : State) (r : DataReg) (v : BitVec s.width) (ts : List Turn), r ∈ [DataReg.opa, .opb, .opm, .opq] →
    (s.status.busy = true →
      Host.Core.run core 2 { s with turns := .write (slotOf r) ⟨s.width, v⟩ :: .engine :: ts }
        = Host.Core.run core 2 { s with turns := .engine :: .write (slotOf r) ⟨s.width, v⟩ :: ts })
    ∧ ∃ t, s.hostWrite (slotOf r) ⟨s.width, v⟩ = .next t ∧ t.x r = uval v
      ∧ ∀ op, (t.accept op).operands = { a := t.x .opa, b := t.x .opb, m := t.x .opm, q := t.x .opq }

/-- 00_scope.md, LATENCY: any number of polls may pass before the completion; each finds BUSY = 1, and the completion is the
same. -/
def Obligations.AnyNumberOfPollsMayPrecedeTheCompletion : Prop :=
  ∀ (n : Nat) (s : State) (i : Instr) (ts : List Turn), s.status.busy = true → decodeOpcode s.lop = some i →
    s.status.word.getLsbD 0 = true
    ∧ Host.Core.run core (n + 1) { s with turns := List.replicate n (.read 1) ++ .engine :: ts }
      = exec i { s with turns := ts, replies := s.replies ++ List.replicate n ⟨1, ⟨32, s.status.word⟩⟩ }

/-- 20_memory.md, completion visibility: over Host accesses, without a completion or a reset among them, every result
register reads as it stood. -/
def Obligations.ResultsStayVisibleUntilTheNextCompletion : Prop :=
  ∀ (n : Nat) (s t : State), n ≤ s.turns.length → (∀ turn ∈ s.turns.take n, turn ≠ .engine ∧ turn ≠ .reset) →
    Host.Core.run core n s = .next t →
    t.width = s.width ∧ ∀ r ∈ results, (t.hostRead (slotOf r)).width = (s.hostRead (slotOf r)).width
      ∧ uval (t.hostRead (slotOf r)).bits = uval (s.hostRead (slotOf r)).bits

/-- The invariant holds after reset, at every width of R6. -/
def Obligations.ResetStateIsLegal : Prop :=
  ∀ w, widthWellFormed w = true → stateLegal (State.resetAt w) = true

/-- Every step keeps the invariant: a width of R6; while BUSY = 1 a latch with a command, named by LASTOP, and DONE, ERR and
MULTI clear; ERRCODE 0 without ERR, and with it a code the last command may raise; MULTI only over a DECRYPT without error. -/
def Obligations.EveryStepKeepsTheInvariant : Prop :=
  ∀ s t : State, stateLegal s = true → step s = .next t → stateLegal t = true

/-- From a state that keeps the invariant no step faults, and a step is refused exactly when the Host's next write is not of
its slot's width. So every access of the interface has an effect. -/
def Obligations.NoStepFaultsUnderTheInvariant : Prop :=
  ∀ s : State, stateLegal s = true →
    (∀ f, step s ≠ .fault f)
    ∧ (∀ r, step s = .refused r ↔ r = .wrongWidth ∧ turnFits s.width s.nextTurn = false)
    ∧ (turnFits s.width s.nextTurn = true → ∃ t, step s = .next t)

/-- 70_reset_and_hazards.md, termination: from a legal state with a legal Host, the run ends, no later than one step after
its last turn, in a legal state; taken on, it takes every turn, completes what is then owed, and has still ended. -/
def Obligations.EveryRunEnds : Prop :=
  ∀ s : State, stateLegal s = true → hostLegal s = true →
    (∃ k t, k ≤ s.turns.length + 1 ∧ EndsAt k s t ∧ stateLegal t = true)
    ∧ ∃ t, Host.Core.run core (s.turns.length + 1) s = .next t ∧ t.turns = [] ∧ t.status.busy = false
      ∧ ended t = true ∧ stateLegal t = true

/-- R56: no step of one instance reads or writes the state of another. -/
def Obligations.InstancesAreIndependent : Prop :=
  ∀ (p p' : Platform) (k : Nat), p.step k = .next p' →
    p'.length = p.length ∧ (∀ j, j ≠ k → p'[j]? = p[j]?)
    ∧ (∀ s, p[k]? = some s → ∃ t, step s = .next t ∧ p'[k]? = some t)

/-- 30_encoding.md, transaction encoding: a value's hexadecimal digits, as many as its width takes, read back as the value. -/
def Obligations.HexDigitsReadBack : Prop :=
  ∀ d : Datum,
    (hexDigits d).length = (d.width + 3) / 4 ∧ (∀ x ∈ hexDigits d, x < 16)
    ∧ (hexDigits d).foldl (fun n x => 16 * n + x) 0 = uval d.bits
end

