-- ==== Sys2Proof/Laws/Arith.lean ====
section
/-! SUPPORT. The recursion of spec/40_modular_primitives.md R71, and what `inv`, `crt` and the checks answer. -/

namespace Sys2Proof.Machine

/-- Square and multiply, with as much fuel as the exponent, gives the power. -/
theorem powModFuel_eq : ∀ (fuel b e m : Nat), e ≤ fuel → powModFuel fuel b e m = b ^ e % m := by
  intro fuel
  induction fuel with
  | zero => intro b e m h; simp [powModFuel, Nat.le_zero.1 h]
  | succ fuel ih =>
    intro b e m h
    by_cases he : e = 0
    · simp [powModFuel, he]
    · simp only [powModFuel, he, if_false]
      rw [ih _ _ _ (by omega), ← Nat.pow_mod, ← pow_two, ← pow_mul]
      split
      · next h2 => rw [show 2 * (e / 2) = e by omega]
      · next h2 =>
        rw [Nat.mod_mul_mod, ← pow_succ, show 2 * (e / 2) + 1 = e by omega]

/-- The evaluated power is the power of spec/40_modular_primitives.md R70. -/
@[simp] theorem powMod_eq (b e m : Nat) : powMod b e m = modpow b e m := powModFuel_eq e b e m le_rfl

theorem egcdFuel_zero_right (fuel a : Nat) : egcdFuel fuel a 0 = (a, 1, 0) := by
  cases fuel <;> simp [egcdFuel]

/-- The half-root is the source's power (spec/42_root_finder.md R83). -/
theorem halfRoot_eq (c p : Nat) : halfRoot c p = c ^ ((p + 1) / 4) % p := powMod_eq c _ p

/-- Once the fuel exceeds the second argument, more of it changes nothing. -/
theorem egcdFuel_enough {b : Nat} : ∀ {f g a : Nat}, b < f → b < g → egcdFuel f a b = egcdFuel g a b := by
  induction b using Nat.strong_induction_on with
  | _ b ih =>
    intro f g a hf hg
    obtain ⟨f, rfl⟩ := Nat.exists_eq_succ_of_ne_zero (Nat.ne_of_gt (Nat.lt_of_le_of_lt (Nat.zero_le _) hf))
    obtain ⟨g, rfl⟩ := Nat.exists_eq_succ_of_ne_zero (Nat.ne_of_gt (Nat.lt_of_le_of_lt (Nat.zero_le _) hg))
    by_cases hb : b = 0
    · simp [egcdFuel, hb]
    · have hlt : a % b < b := Nat.mod_lt _ (Nat.pos_of_ne_zero hb)
      simp only [egcdFuel, hb, if_false]
      rw [ih _ hlt (f := f) (g := g) (by omega) (by omega)]

/-- With enough fuel the first component is the greatest common divisor and the triple is a Bezout identity. -/
theorem egcdFuel_bezout {b : Nat} : ∀ {f a : Nat}, b < f →
    (egcdFuel f a b).1 = Nat.gcd a b
    ∧ (a : Int) * (egcdFuel f a b).2.1 + b * (egcdFuel f a b).2.2 = (Nat.gcd a b : Int) := by
  induction b using Nat.strong_induction_on with
  | _ b ih =>
    intro f a hf
    obtain ⟨f, rfl⟩ := Nat.exists_eq_succ_of_ne_zero (Nat.ne_of_gt (Nat.lt_of_le_of_lt (Nat.zero_le _) hf))
    by_cases hb : b = 0
    · simp [egcdFuel, hb]
    · have hlt : a % b < b := Nat.mod_lt _ (Nat.pos_of_ne_zero hb)
      have hg : Nat.gcd b (a % b) = Nat.gcd a b := by rw [Nat.gcd_comm b, ← Nat.gcd_rec, Nat.gcd_comm]
      obtain ⟨h1, h2⟩ := ih _ hlt (f := f) (a := b) (by omega)
      simp only [egcdFuel, hb, if_false]
      refine ⟨h1.trans hg, ?_⟩
      rw [← hg, ← h2]
      have hd : (a : Int) = b * (a / b : Nat) + (a % b : Nat) := by exact_mod_cast (Nat.div_add_mod a b).symm
      generalize egcdFuel f b (a % b) = e
      have : (a : Int) * e.2.2 = (b * (a / b : Nat) + (a % b : Nat)) * e.2.2 := by rw [← hd]
      linear_combination this

theorem coefficientFits_iff (W : Nat) (x : Int) : coefficientFits W x = true ↔ x.natAbs ≤ 2 ^ (W - 1) - 1 :=
  decide_eq_true_iff

/-- The assertion of R72 on the operands, as the two bounds it checks. -/
theorem bezoutFits_iff (W : Nat) (o : Operands) : bezoutFits W o = true ↔
    (egcd o.a o.b).2.1.natAbs ≤ 2 ^ (W - 1) - 1 ∧ (egcd o.a o.b).2.2.natAbs ≤ 2 ^ (W - 1) - 1 := by
  unfold bezoutFits
  rw [Bool.and_eq_true, coefficientFits_iff, coefficientFits_iff]

/-- `inv` answers NO_INVERSE or a number below the modulus, and never another error. -/
theorem inv_cases (a m : Nat) (hm : 0 < m) :
    (inv a m = .error .noInverse ∧ Nat.gcd a m ≠ 1) ∨ (∃ r, inv a m = .ok r ∧ r < m ∧ Nat.gcd a m = 1) := by
  have hg := (egcdFuel_bezout (b := m) (f := m + 1) (a := a) (Nat.lt_succ_self m)).1
  unfold inv egcd
  revert hg
  generalize egcdFuel (m + 1) a m = e
  obtain ⟨g, x, y⟩ := e
  intro hg
  simp only at hg
  by_cases h1 : g = 1
  · refine .inr ⟨_, if_pos h1, ?_, hg ▸ h1⟩
    have := Int.emod_lt_of_pos x (Int.natCast_pos.2 hm)
    have := Int.emod_nonneg x (Int.natCast_ne_zero.2 (Nat.ne_of_gt hm))
    omega
  · exact .inl ⟨if_neg h1, hg ▸ h1⟩

/-- The checks of spec/42_root_finder.md R82 pass exactly when each of the four conditions fails. -/
theorem checkInputs_ok {W c p q : Nat} :
    checkInputs W c p q = .ok () ↔ p ≠ 0 ∧ q ≠ 0 ∧ p * q < 2 ^ W ∧ c < p * q ∧ Nat.gcd p q = 1 := by
  unfold checkInputs
  split
  · next h => simp; tauto
  · next h =>
    split
    · next h2 => simp; omega
    · split
      · next h3 => simp; omega
      · split
        · next h4 => simp; tauto
        · next h4 => simp at h4 ⊢; omega

end Sys2Proof.Machine
end

