-- ==== Sys2Proof/Laws/Commands.lean ====
section
/-! SUPPORT. What each command's function answers, by its checks. -/

namespace Sys2Proof.Machine

theorem cmdModpow_zero {o : Operands} (h : o.m = 0) : cmdModpow o = .error .modulusZero := if_pos h

theorem cmdModpow_ok {o : Operands} (h : o.m ≠ 0) :
    cmdModpow o = .ok { res0 := some (.unsigned (modpow o.a o.b o.m)) } := by
  unfold cmdModpow
  rw [if_neg h, powMod_eq]

theorem cmdSqr_zero {o : Operands} (h : o.m = 0) : cmdSqr o = .error .modulusZero := if_pos h

theorem cmdSqr_ok {o : Operands} (h : o.m ≠ 0) :
    cmdSqr o = .ok { res0 := some (.unsigned (o.a * o.a % o.m)) } := if_neg h

theorem cmdModinv_zero {o : Operands} (h : o.m = 0) : cmdModinv o = .error .modulusZero := if_pos h

theorem cmdModinv_error {o : Operands} {e : ErrCode} (h : o.m ≠ 0) (hi : inv o.a o.m = .error e) :
    cmdModinv o = .error e := by
  unfold cmdModinv
  rw [if_neg h, hi]

theorem cmdModinv_ok {o : Operands} {r : Nat} (h : o.m ≠ 0) (hi : inv o.a o.m = .ok r) :
    cmdModinv o = .ok { res0 := some (.unsigned r) } := by
  unfold cmdModinv
  rw [if_neg h, hi]

theorem cmdCrt_zero {W : Nat} {o : Operands} (h : o.m = 0 ∨ o.q = 0) : cmdCrt W o = .error .modulusZero := if_pos h

theorem cmdCrt_range {W : Nat} {o : Operands} (h : ¬(o.m = 0 ∨ o.q = 0)) (hr : 2 ^ W ≤ o.m * o.q) :
    cmdCrt W o = .error .operandRange := by
  unfold cmdCrt
  rw [if_neg h, if_pos hr]

theorem cmdCrt_coprime {W : Nat} {o : Operands} (h : ¬(o.m = 0 ∨ o.q = 0)) (hr : ¬2 ^ W ≤ o.m * o.q)
    (hg : Nat.gcd o.m o.q ≠ 1) : cmdCrt W o = .error .noInverse := by
  unfold cmdCrt
  rw [if_neg h, if_neg hr, if_pos hg]

theorem cmdCrt_ok {W x : Nat} {o : Operands} (h : ¬(o.m = 0 ∨ o.q = 0)) (hr : ¬2 ^ W ≤ o.m * o.q)
    (hg : Nat.gcd o.m o.q = 1) (hx : crt o.a o.b o.m o.q = .ok x) :
    cmdCrt W o = .ok { res0 := some (.unsigned x) } := by
  unfold cmdCrt
  rw [if_neg h, if_neg hr, if_neg (not_not.2 hg), hx]

/-- ROOTS and DECRYPT end with the error of the first check that fails. -/
theorem rootCommand_error {i : Instr} {W : Nat} {o : Operands} {e : ErrCode} (hi : i = .roots ∨ i = .decrypt)
    (h : checkInputs W o.a o.m o.q = .error e) : cmdOutcome i W o = .error e := by
  rcases hi with rfl | rfl <;> simp [cmdOutcome, cmdRoots, cmdDecrypt, findRoots, h]

/-- The positions of `hits` are those of the candidates in range, in ascending order. -/
theorem RootSet.mem_hits (r : RootSet) (k : Fin 4) : k ∈ r.hits ↔ r.cand k ≤ Config.plaintextMax := by
  unfold RootSet.hits
  rw [List.mem_filter, decide_eq_true_iff]
  exact and_iff_right (by revert k; decide)

theorem RootSet.hits_sorted (r : RootSet) : r.hits.Pairwise (· < ·) := List.Pairwise.filter _ (by decide)

end Sys2Proof.Machine
end

