-- ==== Sys2Proof/Laws/Decode.lean ====
section
/-! SUPPORT. The small lemmas of the decoder and the encoder. -/

namespace Sys2Proof

@[simp] theorem decodeOpcode_encodeOpcode (i : Instr) : decodeOpcode (encodeOpcode i) = some i := by cases i <;> rfl

@[simp] theorem opcodeOf_encode (i : Instr) : opcodeOf (encode i) = encodeOpcode i := by cases i <;> rfl

/-- What an accepted word's opcode names. -/
theorem decode_ok {w : BitVec 32} {i : Instr} (h : decode w = .ok i) :
    rsvdOf w = 0 ∧ decodeOpcode (opcodeOf w) = some i := by
  unfold decode at h
  split at h
  · next hr =>
    split at h
    · next j hj => exact ⟨hr, by simpa [hj] using h⟩
    · cases h
  · cases h

/-- An opcode that names a command is that command's opcode. -/
theorem decodeOpcode_eq_some {op : BitVec 4} {i : Instr} (h : decodeOpcode op = some i) : op = encodeOpcode i := by
  revert op i
  decide

theorem wordWellFormed_iff (w : BitVec 32) :
    wordWellFormed w = true ↔ w.toNat / 16 = 0 ∧ 1 ≤ w.toNat % 16 ∧ w.toNat % 16 ≤ 7 := by
  unfold wordWellFormed
  simp

theorem widthWellFormed_iff (W : Nat) : widthWellFormed W = true ↔ 8 ≤ W ∧ W ≤ 65535 := by
  unfold widthWellFormed
  rw [Bool.and_eq_true, decide_eq_true_iff, decide_eq_true_iff]
  rfl

end Sys2Proof
end

