-- ==== Sys2Proof/Laws/State.lean ====
section
/-! SUPPORT. What each operation leaves in each part of the state: one lemma per operation and part, so that no later proof
unfolds a record update. -/

namespace Sys2Proof.Machine

section Snapshot
variable (s : State) (op : BitVec 4)
@[simp] theorem State.accept_width : (s.accept op).width = s.width := rfl
@[simp] theorem State.accept_x (r : DataReg) : (s.accept op).x r = s.x r := by cases r <;> rfl
@[simp] theorem State.accept_status : (s.accept op).status = s.status.accept op := rfl
@[simp] theorem State.accept_lop : (s.accept op).lop = op := rfl
@[simp] theorem State.accept_operands :
    (s.accept op).operands = { a := s.x .opa, b := s.x .opb, m := s.x .opm, q := s.x .opq } := rfl
@[simp] theorem State.accept_turns : (s.accept op).turns = s.turns := rfl
@[simp] theorem State.accept_replies : (s.accept op).replies = s.replies := rfl
end Snapshot

section Illegal
variable (s : State) (op : BitVec 4)
@[simp] theorem State.illegal_width : (s.illegal op).width = s.width := rfl
@[simp] theorem State.illegal_x (r : DataReg) : (s.illegal op).x r = s.x r := by cases r <;> rfl
@[simp] theorem State.illegal_status : (s.illegal op).status = s.status.illegal op := rfl
@[simp] theorem State.illegal_lop : (s.illegal op).lop = s.lop := rfl
@[simp] theorem State.illegal_operands : (s.illegal op).operands = s.operands := rfl
@[simp] theorem State.illegal_turns : (s.illegal op).turns = s.turns := rfl
@[simp] theorem State.illegal_replies : (s.illegal op).replies = s.replies := rfl
end Illegal

section Overrun
variable (s : State)
@[simp] theorem State.overrun_width : s.overrun.width = s.width := rfl
@[simp] theorem State.overrun_x (r : DataReg) : s.overrun.x r = s.x r := by cases r <;> rfl
@[simp] theorem State.overrun_status : s.overrun.status = s.status.overrun := rfl
@[simp] theorem State.overrun_lop : s.overrun.lop = s.lop := rfl
@[simp] theorem State.overrun_operands : s.overrun.operands = s.operands := rfl
@[simp] theorem State.overrun_turns : s.overrun.turns = s.turns := rfl
@[simp] theorem State.overrun_replies : s.overrun.replies = s.replies := rfl
end Overrun

section Raise
variable (s : State) (c : ErrCode)
@[simp] theorem State.raise_width : (s.raise c).width = s.width := rfl
@[simp] theorem State.raise_x (r : DataReg) : (s.raise c).x r = s.x r := by cases r <;> rfl
@[simp] theorem State.raise_status : (s.raise c).status = s.status.fail c := rfl
@[simp] theorem State.raise_lop : (s.raise c).lop = s.lop := rfl
@[simp] theorem State.raise_operands : (s.raise c).operands = s.operands := rfl
@[simp] theorem State.raise_turns : (s.raise c).turns = s.turns := rfl
@[simp] theorem State.raise_replies : (s.raise c).replies = s.replies := rfl
end Raise

section Commit
variable (s : State) (r : Results)
@[simp] theorem State.commit_width : (s.commit r).width = s.width := rfl
@[simp] theorem State.commit_x_opa : (s.commit r).x .opa = s.x .opa := rfl
@[simp] theorem State.commit_x_opb : (s.commit r).x .opb = s.x .opb := rfl
@[simp] theorem State.commit_x_opm : (s.commit r).x .opm = s.x .opm := rfl
@[simp] theorem State.commit_x_opq : (s.commit r).x .opq = s.x .opq := rfl
@[simp] theorem State.commit_x_res0 : (s.commit r).x .res0 = uval (commitReg r.res0 s.res0) := rfl
@[simp] theorem State.commit_x_res1 : (s.commit r).x .res1 = uval (commitReg r.res1 s.res1) := rfl
@[simp] theorem State.commit_x_res2 : (s.commit r).x .res2 = uval (commitReg r.res2 s.res2) := rfl
@[simp] theorem State.commit_x_res3 : (s.commit r).x .res3 = uval (commitReg r.res3 s.res3) := rfl
@[simp] theorem State.commit_x_res4 : (s.commit r).x .res4 = uval (commitReg r.res4 s.res4) := rfl
@[simp] theorem State.commit_x_res5 : (s.commit r).x .res5 = uval (commitReg r.res5 s.res5) := rfl
@[simp] theorem State.commit_status : (s.commit r).status = s.status.succeed r.multi := rfl
@[simp] theorem State.commit_lop : (s.commit r).lop = s.lop := rfl
@[simp] theorem State.commit_operands : (s.commit r).operands = s.operands := rfl
@[simp] theorem State.commit_turns : (s.commit r).turns = s.turns := rfl
@[simp] theorem State.commit_replies : (s.commit r).replies = s.replies := rfl
end Commit

section Complete
variable (s : State) (o : CmdOutcome)
@[simp] theorem State.complete_ok (r : Results) : s.complete (.ok r) = s.commit r := rfl
@[simp] theorem State.complete_error (c : ErrCode) : s.complete (.error c) = s.raise c := rfl
@[simp] theorem State.complete_width : (s.complete o).width = s.width := by cases o <;> rfl
@[simp] theorem State.complete_lop : (s.complete o).lop = s.lop := by cases o <;> rfl
@[simp] theorem State.complete_operands : (s.complete o).operands = s.operands := by cases o <;> rfl
@[simp] theorem State.complete_turns : (s.complete o).turns = s.turns := by cases o <;> rfl
@[simp] theorem State.complete_replies : (s.complete o).replies = s.replies := by cases o <;> rfl
end Complete

section WriteData
variable (s : State) (r : DataReg) (v : Datum)
@[simp] theorem State.writeData_width : (s.writeData r v).width = s.width := by cases r <;> rfl
@[simp] theorem State.writeData_status : (s.writeData r v).status = s.status := by cases r <;> rfl
@[simp] theorem State.writeData_lop : (s.writeData r v).lop = s.lop := by cases r <;> rfl
@[simp] theorem State.writeData_operands : (s.writeData r v).operands = s.operands := by cases r <;> rfl
@[simp] theorem State.writeData_turns : (s.writeData r v).turns = s.turns := by cases r <;> rfl
@[simp] theorem State.writeData_replies : (s.writeData r v).replies = s.replies := by cases r <;> rfl
theorem State.writeData_x (r' : DataReg) (hw : v.width = s.width) : (s.writeData r v).x r' =
    if r' = r ∧ r ∈ [DataReg.opa, .opb, .opm, .opq] then uval v.bits else s.x r' := by
  obtain ⟨w, b⟩ := v
  subst hw
  cases r <;> cases r' <;> simp [State.writeData, State.x, State.data]
end WriteData

section StatusWrite
variable (s : State) (st : Status)
@[simp] theorem State.withStatus_x (r : DataReg) : State.x { s with status := st } r = s.x r := by cases r <;> rfl
@[simp] theorem State.withStatus_operands : State.operands { s with status := st } = s.operands := rfl
end StatusWrite

section Reset
variable (s : State)
@[simp] theorem State.applyReset_width : s.applyReset.width = s.width := rfl
@[simp] theorem State.applyReset_x (r : DataReg) : s.applyReset.x r = 0 := by
  cases r <;> simp [State.applyReset, State.resetAt, State.x, State.data, uval]
@[simp] theorem State.applyReset_status : s.applyReset.status = Status.reset := rfl
@[simp] theorem State.applyReset_lop : s.applyReset.lop = 0 := rfl
@[simp] theorem State.applyReset_operands : s.applyReset.operands = { a := 0, b := 0, m := 0, q := 0 } := by
  simp [State.applyReset, State.resetAt, State.operands, uval]
@[simp] theorem State.applyReset_turns : s.applyReset.turns = s.turns := rfl
@[simp] theorem State.applyReset_replies : s.applyReset.replies = s.replies := rfl
end Reset

section Read
variable (s : State) (i : BitVec 4)
@[simp] theorem State.readTurn_width : (s.readTurn i).width = s.width := rfl
@[simp] theorem State.readTurn_x (r : DataReg) : (s.readTurn i).x r = s.x r := by cases r <;> rfl
@[simp] theorem State.readTurn_status : (s.readTurn i).status = s.status := rfl
@[simp] theorem State.readTurn_lop : (s.readTurn i).lop = s.lop := rfl
@[simp] theorem State.readTurn_operands : (s.readTurn i).operands = s.operands := rfl
@[simp] theorem State.readTurn_turns : (s.readTurn i).turns = s.turns := rfl
@[simp] theorem State.readTurn_replies : (s.readTurn i).replies = s.replies ++ [⟨i, s.hostRead i⟩] := rfl
end Read

section Pop
variable (s : State)
@[simp] theorem State.popTurn_width : s.popTurn.width = s.width := rfl
@[simp] theorem State.popTurn_x (r : DataReg) : s.popTurn.x r = s.x r := by cases r <;> rfl
@[simp] theorem State.popTurn_status : s.popTurn.status = s.status := rfl
@[simp] theorem State.popTurn_lop : s.popTurn.lop = s.lop := rfl
@[simp] theorem State.popTurn_operands : s.popTurn.operands = s.operands := rfl
@[simp] theorem State.popTurn_turns : s.popTurn.turns = s.turns.tail := rfl
@[simp] theorem State.popTurn_replies : s.popTurn.replies = s.replies := rfl
@[simp] theorem State.popTurn_fetch : s.popTurn.fetch = s.fetch := rfl
end Pop

end Sys2Proof.Machine
end

