-- ==== Sys2Proof/Laws/Word.lean ====
section
/-! SUPPORT. Encoding a number in `W` bits and reading it back (spec/00_scope.md R12). -/

namespace Sys2Proof

theorem uval_lt {W : Nat} (v : BitVec W) : uval v < 2 ^ W := v.isLt

/-- A number that fits its register is not truncated. -/
theorem uval_enc {W i : Nat} (h : i < 2 ^ W) : uval (enc W i) = i := by
  simp [uval, enc, Nat.mod_eq_of_lt h]

@[simp] theorem uval_zero (W : Nat) : uval 0#W = 0 := by simp [uval]

/-- `sval` is Lean's signed reading of a bit vector. -/
theorem sval_eq_toInt {W : Nat} (v : BitVec W) : sval v = v.toInt := by
  simp [sval, BitVec.toInt]

/-- `tc_W` and `sval_W` are inverse on the numbers of `W`-bit two's complement. -/
theorem sval_tc {W : Nat} {i : Int} (hW : 0 < W) (hl : -(2 ^ (W - 1) : Int) ≤ i) (hu : i < 2 ^ (W - 1)) :
    sval (tc W i) = i := by
  rw [sval_eq_toInt, tc]
  exact BitVec.toInt_ofInt_eq_self hW hl hu

end Sys2Proof
end

