-- ==== Sys2Proof/Laws/Ops.lean ====
section
/-! SUPPORT. One lemma per shared operation: everything it can do. -/

namespace Sys2Proof.Machine

/-- A CMD write does one of three things (spec/10_state.md R33 to R35). -/
theorem State.commandWrite_cases (s : State) (w : BitVec 32) :
    (s.status.busy = true ∧ s.commandWrite w = s.overrun)
    ∨ (s.status.busy = false ∧ (∃ i, decode w = .ok i) ∧ s.commandWrite w = s.accept (opcodeOf w))
    ∨ (s.status.busy = false ∧ (∃ e, decode w = .error e) ∧ s.commandWrite w = s.illegal (opcodeOf w)) := by
  unfold State.commandWrite
  cases hb : s.status.busy <;> cases hd : decode w <;> simp

/-- A Host write that is not refused writes its slot. -/
theorem State.hostWrite_next {s t : State} {i : BitVec 4} {v : Datum} (h : s.hostWrite i v = .next t) :
    v.width = slotWidth s.width i ∧ t = s.slotWrite i v := by
  unfold State.hostWrite at h
  split at h
  · next hw => exact ⟨hw, by cases h; rfl⟩
  · cases h

/-- The data slots are 4 to 13 and have the width of the unit; every other slot is of 32 bits (spec/20_memory.md R40). -/
theorem slotWidth_eq (W : Nat) (i : BitVec 4) : slotWidth W i = if 4 ≤ i.toNat ∧ i.toNat ≤ 13 then W else 32 := by
  obtain ⟨i⟩ := i
  fin_cases i <;> rfl

/-- What a write does, by what stands at its slot. -/
theorem State.slotWrite_cases (s : State) (i : BitVec 4) (v : Datum) :
    (i = 0 ∧ s.slotWrite i v = s.commandWrite (v.bits.setWidth 32))
    ∨ (i = 1 ∧ s.slotWrite i v = { s with status := s.status.clear (v.bits.setWidth 32) })
    ∨ (∃ r, slotReg i = .data r ∧ s.slotWrite i v = s.writeData r v)
    ∨ (i ∈ [2#4, 3#4, 14#4, 15#4] ∧ s.slotWrite i v = s) := by
  obtain ⟨i⟩ := i
  fin_cases i
  · exact .inl ⟨rfl, rfl⟩
  · exact .inr (.inl ⟨rfl, rfl⟩)
  · exact .inr (.inr (.inr ⟨by decide, rfl⟩))
  · exact .inr (.inr (.inr ⟨by decide, rfl⟩))
  · exact .inr (.inr (.inl ⟨.opa, rfl, rfl⟩))
  · exact .inr (.inr (.inl ⟨.opb, rfl, rfl⟩))
  · exact .inr (.inr (.inl ⟨.opm, rfl, rfl⟩))
  · exact .inr (.inr (.inl ⟨.opq, rfl, rfl⟩))
  · exact .inr (.inr (.inl ⟨.res0, rfl, rfl⟩))
  · exact .inr (.inr (.inl ⟨.res1, rfl, rfl⟩))
  · exact .inr (.inr (.inl ⟨.res2, rfl, rfl⟩))
  · exact .inr (.inr (.inl ⟨.res3, rfl, rfl⟩))
  · exact .inr (.inr (.inl ⟨.res4, rfl, rfl⟩))
  · exact .inr (.inr (.inl ⟨.res5, rfl, rfl⟩))
  · exact .inr (.inr (.inr ⟨by decide, rfl⟩))
  · exact .inr (.inr (.inr ⟨by decide, rfl⟩))

/-- A Host write keeps the width, the turns to come and the replies. -/
theorem State.slotWrite_keeps (s : State) (i : BitVec 4) (v : Datum) :
    (s.slotWrite i v).width = s.width ∧ (s.slotWrite i v).turns = s.turns
      ∧ (s.slotWrite i v).replies = s.replies := by
  obtain ⟨-, h⟩ | ⟨-, h⟩ | ⟨r, -, h⟩ | ⟨-, h⟩ := s.slotWrite_cases i v <;> rw [h]
  · obtain ⟨-, h⟩ | ⟨-, -, h⟩ | ⟨-, -, h⟩ := s.commandWrite_cases (v.bits.setWidth 32) <;> rw [h] <;> simp
  · exact ⟨rfl, rfl, rfl⟩
  · simp
  · exact ⟨rfl, rfl, rfl⟩

/-- A number that fits the register is committed whole. -/
theorem uval_commitReg {W v : Nat} {old : BitVec W} (h : v < 2 ^ W) :
    uval (commitReg (some (.unsigned v)) old) = v := uval_enc h

/-- `exec` is the completion with R14's outcome, but for the assertion on EGCD's coefficients (R72). -/
theorem exec_eq (i : Instr) (s : State) : exec i s =
    if i = .egcd ∧ bezoutFits s.width s.operands = false then .fault .bezoutOutOfRange
    else .next (s.complete (cmdOutcome i s.width s.operands)) := by
  cases i <;> simp [exec, execModpow, execSqr, execEgcd, execModinv, execCrt, execRoots, execDecrypt, cmdOutcome]
  cases bezoutFits s.width s.operands <;> rfl

/-- A command that answers a next state has completed with R14's outcome. -/
theorem exec_next {i : Instr} {s t : State} (h : exec i s = .next t) :
    t = s.complete (cmdOutcome i s.width s.operands) := by
  rw [exec_eq] at h
  split at h
  · cases h
  · cases h; rfl

/-- A command that answers a next state has committed its results or raised its error. -/
theorem exec_cases {i : Instr} {s t : State} (h : exec i s = .next t) :
    (∃ r, cmdOutcome i s.width s.operands = .ok r ∧ t = s.commit r)
    ∨ (∃ c, cmdOutcome i s.width s.operands = .error c ∧ t = s.raise c) := by
  have := exec_next h
  cases hc : cmdOutcome i s.width s.operands with
  | ok r => exact .inl ⟨r, rfl, by rw [this, hc]; rfl⟩
  | error c => exact .inr ⟨c, rfl, by rw [this, hc]; rfl⟩

/-- Everything a turn can do when it answers a next state. -/
theorem takeTurn_next {turn : Turn} {s t : State} (h : takeTurn turn s = .next t) :
    (∃ i, turn = .read i ∧ t = s.readTurn i)
    ∨ (∃ i v, turn = .write i v ∧ v.width = slotWidth s.width i ∧ t = s.slotWrite i v)
    ∨ (turn = .reset ∧ t = s.applyReset)
    ∨ (turn = .engine ∧ s.status.busy = false ∧ t = s)
    ∨ (turn = .engine ∧ s.status.busy = true ∧ ∃ i, s.fetch = some i ∧ exec i s = .next t) := by
  cases turn with
  | read i => exact .inl ⟨i, rfl, by cases h; rfl⟩
  | write i v => exact .inr (.inl ⟨i, v, rfl, State.hostWrite_next h⟩)
  | reset => exact .inr (.inr (.inl ⟨rfl, by cases h; rfl⟩))
  | engine =>
    simp only [takeTurn, engineTurn] at h
    split at h
    · next hb =>
      refine .inr (.inr (.inr (.inr ⟨rfl, hb, ?_⟩)))
      unfold completeLatched at h
      split at h
      · next i hi => exact ⟨i, hi, h⟩
      · cases h
    · next hb => exact .inr (.inr (.inr (.inl ⟨rfl, by simpa using hb, by cases h; rfl⟩)))

/-- A step takes the next turn, on the state with that turn taken off. -/
theorem step_eq (s : State) : step s = takeTurn s.nextTurn s.popTurn := rfl

/-- A step keeps the width and takes one turn. -/
theorem step_keeps {s t : State} (h : step s = .next t) : t.width = s.width ∧ t.turns = s.turns.tail := by
  rw [step_eq] at h
  obtain ⟨i, -, rfl⟩ | ⟨i, v, -, -, rfl⟩ | ⟨-, rfl⟩ | ⟨-, -, rfl⟩ | ⟨-, -, i, -, hx⟩ := takeTurn_next h
  · simp
  · have := s.popTurn.slotWrite_keeps i v
    exact ⟨this.1, this.2.1⟩
  · simp
  · simp
  · rw [exec_next hx]; simp

end Sys2Proof.Machine
end

