-- ==== Sys2Proof/Laws/PerInstr.lean ====
section
/-! SUPPORT. Statements made once per instruction. -/

namespace Sys2Proof.Laws.EncodeRoundTrip

/-- The instruction's word is legal (spec/30_encoding.md R59), decodes to it, and carries its opcode over zeros (R60). -/
def Statement (i : Instr) : Prop :=
  i.wellFormed = true ∧ wordWellFormed (encode i) = true ∧ decode (encode i) = .ok i ∧ rsvdOf (encode i) = 0

theorem modpow : Statement .modpow := by unfold Statement; decide
theorem sqr : Statement .sqr := by unfold Statement; decide
theorem egcd : Statement .egcd := by unfold Statement; decide
theorem modinv : Statement .modinv := by unfold Statement; decide
theorem crt : Statement .crt := by unfold Statement; decide
theorem roots : Statement .roots := by unfold Statement; decide
theorem decrypt : Statement .decrypt := by unfold Statement; decide

end Sys2Proof.Laws.EncodeRoundTrip
end

