-- ==== Sys2Proof/Laws/Safety.lean ====
section
/-! SUPPORT. The parts of the invariant, and what each write of STATUS makes of them. -/

namespace Sys2Proof.Safety

open Sys2Proof.Machine

theorem stateLegal_iff (s : State) : stateLegal s = true ↔
    widthWellFormed s.width = true ∧ busyLegal s = true ∧ errorLegal s.status = true ∧ multiLegal s.status = true := by
  unfold stateLegal
  rw [Bool.and_eq_true, Bool.and_eq_true, Bool.and_eq_true, and_assoc, and_assoc]

/-- Without an error the code is 0. -/
theorem errorLegal_of_none {st : Status} (h : st.err = false) (h0 : st.errcode = 0) : errorLegal st = true := by
  simp [errorLegal, h, h0]

/-- With an error the code is one that the last command may raise. -/
theorem errorLegal_of_some {st : Status} {c : ErrCode} (h : st.err = true) (hc : st.errcode = c.code)
    (hm : mayRaise st.lastop c = true) : errorLegal st = true := by
  have : c ∈ errCodes := by cases c <;> decide
  simp only [errorLegal, h, List.any_eq_true]
  exact ⟨c, this, by simp [hc, hm]⟩

/-- An illegal word may carry any opcode field. -/
theorem mayRaise_illegalCommand (op : BitVec 4) : mayRaise op .illegalCommand = true := by
  unfold mayRaise
  cases decodeOpcode op <;> rfl

/-- A write of STATUS keeps the agreement of ERR and ERRCODE: it clears both or neither. -/
theorem errorLegal_clear {st : Status} (v : BitVec 32) (h : errorLegal st = true) : errorLegal (st.clear v) = true := by
  obtain ⟨busy, done, err, multi, ovr, errcode, lastop⟩ := st
  revert h
  unfold errorLegal Status.clear
  cases v.getLsbD 2 <;> cases err <;> simp

/-- A write of STATUS keeps the place of MULTI. -/
theorem multiLegal_clear {st : Status} (v : BitVec 32) (h : multiLegal st = true) : multiLegal (st.clear v) = true := by
  obtain ⟨busy, done, err, multi, ovr, errcode, lastop⟩ := st
  revert h
  unfold multiLegal Status.clear
  cases v.getLsbD 2 <;> cases v.getLsbD 3 <;> cases err <;> cases multi <;> simp

/-- A state that is not busy asks nothing of its latch. -/
theorem busyLegal_of_idle {s : State} (h : s.status.busy = false) : busyLegal s = true := by
  simp [busyLegal, h]

/-- What BUSY = 1 says of the latch and STATUS. -/
theorem busyLegal_of_busy {s : State} (h : s.status.busy = true) : busyLegal s = true ↔
    (∃ i, decodeOpcode s.lop = some i) ∧ s.status.lastop = s.lop
      ∧ s.status.done = false ∧ s.status.err = false ∧ s.status.multi = false := by
  simp [busyLegal, h, Option.isSome_iff_exists, and_assoc]

/-- A run has ended exactly when no turn to come is a Host access and BUSY = 0. -/
theorem ended_iff (s : State) : ended s = true ↔ (∀ turn ∈ s.turns, isAccess turn = false) ∧ s.status.busy = false := by
  simp [ended]

/-- A run that has ended well has ended. -/
theorem ended_of_endedWell {s : State} (h : endedWell s = true) : ended s = true := by
  rw [endedWell, Bool.and_eq_true] at h
  exact h.1

/-- A run has one end. -/
theorem endsAt_unique {j k : Nat} {s t u : State} (h : EndsAt j s t) (h' : EndsAt k s u) : j = k ∧ t = u := by
  obtain ⟨h1, h2, h3⟩ := h
  obtain ⟨h1', h2', h3'⟩ := h'
  obtain hlt | rfl | hlt := Nat.lt_trichotomy j k
  · obtain ⟨v, hv, he⟩ := h3' j hlt
    rw [h1] at hv
    cases hv
    rw [h2] at he
    cases he
  · rw [h1] at h1'
    cases h1'
    exact ⟨rfl, rfl⟩
  · obtain ⟨v, hv, he⟩ := h3 k hlt
    rw [h1'] at hv
    cases hv
    rw [h2'] at he
    cases he

end Sys2Proof.Safety
end

