-- ==== Sys2Proof/Tests/Slice0.lean ====
section
/-! SUPPORT. The model's own tests: expected values are those of spec/95_test_vectors.md and of the rules named; and, for
every statement with hypotheses, states that meet them. -/

namespace Sys2Proof.Tests

open Sys2Proof Sys2Proof.Machine Sys2Proof.Safety Sys2Proof.Claims

/-! Helpers -/

/-- A unit of width `W` after reset and four operand writes. -/
def idle (W a b m q : Nat) : State :=
  { State.resetAt W with opa := enc W a, opb := enc W b, opm := enc W m, opq := enc W q }

/-- That unit after the accept of command `i`. -/
def running (i : Instr) (W a b m q : Nat) : State := (idle W a b m q).accept (encodeOpcode i)

/-- `s` with the turns `ts` to come. -/
def withTurns (s : State) (ts : List Turn) : State := { s with turns := ts }

/-- The outcome is a next state, and `p` holds of it. -/
def leaves (o : Host.Outcome State Fault Refusal) (p : State → Bool) : Bool :=
  match o with
  | .next t => p t
  | .fault _ => false
  | .refused _ => false

theorem leaves_next {o : Host.Outcome State Fault Refusal} {p : State → Bool} (h : leaves o p = true) :
    ∃ t, o = .next t ∧ p t = true := by
  cases o with
  | next t => exact ⟨t, rfl, h⟩
  | fault f => cases h
  | refused r => cases h

/-- STATUS and the result registers 0 to 5, as numbers. -/
def view (s : State) : Nat × List Nat := (s.status.word.toNat, results.map s.x)

/-- The completion of `i` on operands `a`, `b`, `m`, `q` at W = 16 leaves this STATUS word and these results. -/
def completes (i : Instr) (a b m q : Nat) (status : Nat) (res : List Nat) : Bool :=
  leaves (exec i (running i 16 a b m q)) fun t => view t == (status, res)

/-! Well-formedness: what each check refuses (30_encoding.md R59, R61; 00_scope.md R6; 20_memory.md R43; 30_encoding.md R67) -/

theorem test_word_opcode_0 : wordWellFormed 0x00000000 = false := by decide
theorem test_word_opcode_8 : wordWellFormed 0x00000008 = false := by decide
theorem test_word_opcode_15 : wordWellFormed 0x0000000F = false := by decide
theorem test_word_rsvd_low : wordWellFormed 0x00000017 = false := by decide
theorem test_word_rsvd_high : wordWellFormed 0x80000001 = false := by decide
theorem test_word_legal : wordWellFormed 0x00000001 = true ∧ wordWellFormed 0x00000007 = true := by decide
theorem test_width_bounds : widthWellFormed 7 = false ∧ widthWellFormed 8 = true ∧ widthWellFormed 65535 = true
    ∧ widthWellFormed 65536 = false := by decide
theorem test_access_width : accessWellFormed 16 ⟨32, 0⟩ = false ∧ accessWellFormed 32 ⟨32, 0⟩ = true := by decide
theorem test_instr_well_formed : Instr.wellFormed .modpow ∧ Instr.wellFormed .decrypt := by decide
theorem test_hostOp_too_wide : HostOp.wellFormed 16 (.wr 4 65536) = false ∧ HostOp.wellFormed 16 (.wr 4 65535) = true
    ∧ HostOp.wellFormed 16 (.wr 4 (-32769)) = false ∧ HostOp.wellFormed 16 (.wr 4 (-32768)) = true
    ∧ HostOp.wellFormed 16 (.wr 1 (-1)) = false := by decide

/-! Decoding: the words bit by bit, RSVD over OPCODE (R58, R60, R61) -/

theorem test_decode_modpow : decode (0b0000000000000000000000000000#28 ++ 0b0001#4) = .ok .modpow := by decide
theorem test_decode_sqr : decode (0b0000000000000000000000000000#28 ++ 0b0010#4) = .ok .sqr := by decide
theorem test_decode_egcd : decode (0b0000000000000000000000000000#28 ++ 0b0011#4) = .ok .egcd := by decide
theorem test_decode_modinv : decode (0b0000000000000000000000000000#28 ++ 0b0100#4) = .ok .modinv := by decide
theorem test_decode_crt : decode (0b0000000000000000000000000000#28 ++ 0b0101#4) = .ok .crt := by decide
theorem test_decode_roots : decode (0b0000000000000000000000000000#28 ++ 0b0110#4) = .ok .roots := by decide
theorem test_decode_decrypt : decode (0b0000000000000000000000000000#28 ++ 0b0111#4) = .ok .decrypt := by decide
theorem test_decode_reserved_bits : decode (0b0000000000000000000000000001#28 ++ 0b0111#4) = .error .reservedBits := by decide
theorem test_decode_reserved_opcode : decode (0b0000000000000000000000000000#28 ++ 0b1000#4) = .error .reservedOpcode := by
  decide
theorem test_decodeTableWord : decodeTableWord 32 0x00000005 = some .crt ∧ decodeTableWord 32 0x00000015 = none := by decide

/-! One step per command: the vectors of 95_test_vectors.md, Part 2 -/

/-- MODPOW #3: `0^0 = 1`. -/
theorem test_modpow_zero_to_the_zero : completes .modpow 0 0 7 0 0x00010002 [1, 0, 0, 0, 0, 0] = true := by decide +kernel
/-- MODPOW #12: the largest exponent. -/
theorem test_modpow_largest_exponent :
    completes .modpow 2 65535 65521 0 0x00010002 [32768, 0, 0, 0, 0, 0] = true := by decide +kernel
/-- SQR #9: the product needs 32 bits. -/
theorem test_sqr_exact : completes .sqr 65535 0 65534 0 0x00020002 [1, 0, 0, 0, 0, 0] = true := by decide +kernel
/-- SQR #13. -/
theorem test_sqr_zero_modulus : completes .sqr 9 0 0 0 0x00020206 [0, 0, 0, 0, 0, 0] = true := by decide +kernel
/-- EGCD #1: `(2, -9, 47)`. -/
theorem test_egcd_signed : completes .egcd 240 46 0 0 0x00030002 [2, 0xFFF7, 0x002F, 0, 0, 0] = true := by decide +kernel
/-- EGCD #15. -/
theorem test_egcd_long : completes .egcd 40902 24140 0 0 0x00030002 [34, 0x0151, 0xFDC5, 0, 0, 0] = true := by decide +kernel
/-- MODINV #8: the coefficient -1 normalised. -/
theorem test_modinv_normalised : completes .modinv 65534 0 65535 0 0x00040002 [65534, 0, 0, 0, 0, 0] = true := by
  decide +kernel
/-- MODINV #10. -/
theorem test_modinv_none : completes .modinv 6 0 9 0 0x00040506 [0, 0, 0, 0, 0, 0] = true := by decide +kernel
/-- CRT #6: a residue that is not reduced. -/
theorem test_crt_unreduced : completes .crt 9 3 7 11 0x00050002 [58, 0, 0, 0, 0, 0] = true := by decide +kernel
/-- CRT #18: the modulus product is too wide. -/
theorem test_crt_range : completes .crt 1 1 257 263 0x00050306 [0, 0, 0, 0, 0, 0] = true := by decide +kernel
/-- ROOTS #1. -/
theorem test_roots_order : completes .roots 9 0 7 11 0x00060002 [25, 74, 3, 52, 4, 3] = true := by decide +kernel
/-- ROOTS #14: `c = p*q`. -/
theorem test_roots_ciphertext : completes .roots 77 0 7 11 0x00060406 [0, 0, 0, 0, 0, 0] = true := by decide +kernel
/-- DECRYPT #10: a multi-hit, the first in range wins. -/
theorem test_decrypt_multi : completes .decrypt 4 0 7 11 0x0007000A [9, 0, 2, 0, 0, 0] = true := by decide +kernel
/-- DECRYPT #7: no candidate in range. -/
theorem test_decrypt_none : completes .decrypt 729 0 43 47 0x00070606 [0, 0, 0, 0, 0, 0] = true := by decide +kernel

/-! The control interface: 95_test_vectors.md, Part 3 -/

/-- K2: CFG at W = 16. -/
theorem test_cfg : State.reset.hostRead 2 = ⟨32, 0x00000010⟩ := by decide
/-- K3. -/
theorem test_reserved_reads : ∀ i ∈ [0#4, 3#4, 14#4, 15#4], State.reset.hostRead i = ⟨32, 0⟩ := by decide
/-- K4. -/
theorem test_illegal_zero : leaves (State.reset.hostWrite 0 ⟨32, 0x00000000⟩) (fun t => t.status.word == 0x00000106) := by
  decide
/-- K6: LASTOP takes bits 3:0 of an illegal word. -/
theorem test_illegal_rsvd : leaves (State.reset.hostWrite 0 ⟨32, 0x00000017⟩) (fun t => t.status.word == 0x00070106) := by
  decide
/-- K7. -/
theorem test_accept : leaves (State.reset.hostWrite 0 ⟨32, 0x00000002⟩) (fun t => t.status.word == 0x00020001) := by decide
/-- K8: the completion on the operands of reset. -/
theorem test_complete_reset_operands :
    leaves (exec .sqr (running .sqr 16 0 0 0 0)) (fun t => t.status.word == 0x00020206) := by decide +kernel
/-- K9. -/
theorem test_overrun :
    leaves ((running .sqr 16 0 0 0 0).hostWrite 0 ⟨32, 0x00000001⟩) (fun t => t.status.word == 0x00020011) := by decide
/-- The state after K10. -/
def k10 : State := ((running .sqr 16 0 0 0 0).overrun).raise .modulusZero
theorem test_k10 : k10.status.word = 0x00020216 := by decide
/-- K11. -/
theorem test_clear_err : leaves (k10.hostWrite 1 ⟨32, 0x00000004⟩) (fun t => t.status.word == 0x00020012) := by decide
/-- K13. -/
theorem test_clear_all : leaves (k10.hostWrite 1 ⟨32, 0xFFFFFFFF⟩) (fun t => t.status.word == 0x00020000) := by decide
/-- K14. -/
theorem test_reset_abandons :
    leaves (step (withTurns (running .sqr 16 3 0 77 0) [.reset])) (fun t => view t == (0, [0, 0, 0, 0, 0, 0])) := by
  decide +kernel
/-- K16. -/
theorem test_result_read_only : leaves (State.reset.hostWrite 8 ⟨16, 5⟩) (fun t => t == State.reset) := by decide
/-- R43: a value of the wrong width. -/
theorem test_wrong_width : State.reset.hostWrite 4 ⟨32, 5⟩ = .refused .wrongWidth := rfl
/-- A command placed at reset is what the next step runs: EGCD on the operands of reset gives `(0, 1, 0)` (EGCD #3). -/
theorem test_placed_egcd : leaves (step (State.reset.withFetchWord 32 0x00000003))
    (fun t => view t == (0x00030002, [0, 1, 0, 0, 0, 0])) := by decide +kernel
/-- An illegal word placed at reset is the next Host write (K5). -/
theorem test_placed_illegal : leaves (step (State.reset.withFetchWord 32 0x0000000F))
    (fun t => t.status.word == 0x000F0106) := by decide +kernel
/-- P1's first line and its `WAIT` as turns (30_encoding.md R67, R68). -/
theorem test_program_turns : programTurns 16 [.wr 4 3, .cmd .sqr, .wait 1] =
    [.write 4 ⟨16, 3⟩, .write 0 ⟨32, 2⟩, .read 1, .engine, .read 1] := by decide
/-- P4's two commands with no `WAIT` between them: run A, and run B with the completion before the second. -/
theorem test_program_back_to_back :
    programTurns 16 [.cmd .modpow, .wr 6 77, .cmd .sqr] = [.write 0 ⟨32, 1⟩, .write 6 ⟨16, 77⟩, .write 0 ⟨32, 2⟩]
    ∧ programTurns 16 [.cmd .modpow, .engine, .wr 6 77, .cmd .sqr] =
      [.write 0 ⟨32, 1⟩, .engine, .write 6 ⟨16, 77⟩, .write 0 ⟨32, 2⟩] := by decide
/-- R127: an Engine's turn left with BUSY = 0 keeps no run from having ended, an access left does, and so does BUSY = 1. -/
theorem test_ended : ended (withTurns State.reset [.engine]) = true ∧ ended (withTurns State.reset [.reset]) = true
    ∧ ended (withTurns State.reset [.engine, .read 1]) = false ∧ ended (running .sqr 16 3 0 77 0) = false := by decide
/-- R127: an illegal word and then a reset; the run ends after the word, with ERR = 1, so not well. -/
theorem test_ended_not_well : leaves (step (withTurns State.reset [.write 0 ⟨32, 8⟩, .reset]))
    (fun t => ended t && !endedWell t) = true := by decide +kernel
/-- R67: a negative value means its two's complement. -/
theorem test_program_negative : programTurns 16 [.wr 5 (-9)] = [.write 5 ⟨16, 0xFFF7⟩] := by decide
/-- R69: `(W, 6, 004D)`. -/
theorem test_transaction : Turn.transaction (.write 6 ⟨16, 77⟩) = some { dir := .w, slot := 6, data := [0, 0, 4, 13] } := by
  decide

/-! Witnesses: for every statement with hypotheses, states and operands that meet them, one clause each -/

/-- An idle unit, and a busy one with DECRYPT in its latch: `c = 9` under the key `(7, 11)`. -/
def idleUnit : State := idle 16 9 2 7 11
def busyUnit : State := running .decrypt 16 9 2 7 11

/-- Each kind of turn, on a state where it answers a next state: a read; a write of CMD busy, idle and legal, idle and
illegal; of STATUS; of an operand, a result and a reserved slot; a reset; the Engine's turn idle and busy. -/
def EveryTurnSteps : Prop :=
  (∃ t, step (withTurns idleUnit [.read 1]) = .next t)
  ∧ (∃ t, step (withTurns busyUnit [.write 0 ⟨32, 1⟩]) = .next t)
  ∧ (∃ t, step (withTurns idleUnit [.write 0 ⟨32, 7⟩]) = .next t)
  ∧ (∃ t, step (withTurns idleUnit [.write 0 ⟨32, 8⟩]) = .next t)
  ∧ (∃ t, step (withTurns k10 [.write 1 ⟨32, 0x1E⟩]) = .next t)
  ∧ (∃ t, step (withTurns idleUnit [.write 4 ⟨16, 65535⟩]) = .next t)
  ∧ (∃ t, step (withTurns busyUnit [.write 7 ⟨16, 65535⟩]) = .next t)
  ∧ (∃ t, step (withTurns idleUnit [.write 13 ⟨16, 1⟩]) = .next t)
  ∧ (∃ t, step (withTurns idleUnit [.write 15 ⟨32, 1⟩]) = .next t)
  ∧ (∃ t, step (withTurns busyUnit [.reset]) = .next t)
  ∧ (∃ t, step (withTurns idleUnit [.engine]) = .next t)
  ∧ (∃ t, step (withTurns busyUnit [.engine]) = .next t)
  ∧ (∃ t, step (withTurns busyUnit []) = .next t)
  ∧ idleUnit.status.busy = false ∧ busyUnit.status.busy = true

theorem everyTurnSteps : EveryTurnSteps :=
  ⟨⟨_, rfl⟩, ⟨_, rfl⟩, ⟨_, rfl⟩, ⟨_, rfl⟩, ⟨_, rfl⟩, ⟨_, rfl⟩, ⟨_, rfl⟩, ⟨_, rfl⟩, ⟨_, rfl⟩, ⟨_, rfl⟩, ⟨_, rfl⟩, ⟨_, rfl⟩,
    ⟨_, rfl⟩, rfl, rfl⟩

theorem legal_seven : Legal 7#32 := by unfold Legal; decide
theorem legal_one : Legal 1#32 := by unfold Legal; decide
theorem illegal_zero : ¬ Legal 0#32 := by unfold Legal; decide
theorem illegal_eight : ¬ Legal 8#32 := by unfold Legal; decide
theorem illegal_rsvd : ¬ Legal 0x17#32 := by unfold Legal; decide

theorem witness_LegalWordsAreTheCommands : Legal 1#32 ∧ Legal 7#32 ∧ ¬ Legal 0#32 ∧ ¬ Legal 8#32 ∧ ¬ Legal 0x17#32
    ∧ idleUnit.status.busy = false ∧ busyUnit.status.busy = true :=
  ⟨legal_one, legal_seven, illegal_zero, illegal_eight, illegal_rsvd, rfl, rfl⟩

theorem witness_DecodeInvertsEncode : decode 7#32 = .ok .decrypt ∧ (7#32) = encode .decrypt := ⟨rfl, rfl⟩

theorem witness_AcceptTakesTheSnapshot : idleUnit.status.busy = false ∧ Legal 7#32 := ⟨rfl, legal_seven⟩

theorem witness_IllegalWordReportsAtOnce : idleUnit.status.busy = false ∧ ¬ Legal 8#32 := ⟨rfl, illegal_eight⟩

theorem witness_CommandWriteWhileBusySetsOvrOnly : busyUnit.status.busy = true := rfl

theorem witness_HostReadReturnsTheSlot :
    (∀ i : BitVec 4, (withTurns idleUnit [.read i]).turns = .read i :: [])
    ∧ (∀ i ∈ [0#4, 3#4, 14#4, 15#4], i ≠ 1 ∧ i ≠ 2 ∧ ∀ r, i ≠ slotOf r) ∧ 4#4 = slotOf .opa ∧ 13#4 = slotOf .res5 :=
  ⟨fun _ => rfl, by intro i hi; refine ⟨?_, ?_, fun r => ?_⟩ <;> (try cases r) <;> revert hi <;> revert i <;> decide,
    rfl, rfl⟩

theorem witness_HostWriteActsOnItsSlot : idleUnit.status.busy = false ∧ Legal 7#32 ∧ ¬ Legal 8#32
    ∧ busyUnit.status.busy = true ∧ (2#32).getLsbD 1 = true ∧ (4#32).getLsbD 1 = false :=
  ⟨rfl, legal_seven, illegal_eight, rfl, rfl, rfl⟩

theorem witness_WrongWidthIsRefused :
    ((3#4).toNat, (4#4).toNat, (13#4).toNat, (14#4).toNat) = (3, 4, 13, 14)
    ∧ (Datum.mk 16 5).width = idleUnit.width ∧ (Datum.mk 32 5).width ≠ idleUnit.width := ⟨rfl, rfl, by decide⟩

theorem witness_SideEffectsAreAtSlotsZeroAndOne :
    (withTurns idleUnit [.read 1]).nextTurn = .read 1 ∧ (∃ t, step (withTurns idleUnit [.read 1]) = .next t)
    ∧ (∃ t, idleUnit.hostWrite 1 ⟨32, 2⟩ = .next t) ∧ (∃ t, idleUnit.hostWrite (slotOf .opa) ⟨16, 2⟩ = .next t)
    ∧ (∃ t, idleUnit.hostWrite (slotOf .res5) ⟨16, 2⟩ = .next t) ∧ (∃ t, idleUnit.hostWrite 2 ⟨32, 2⟩ = .next t)
    ∧ (∃ t, idleUnit.hostWrite 14 ⟨32, 2⟩ = .next t) :=
  ⟨rfl, ⟨_, rfl⟩, ⟨_, rfl⟩, ⟨_, rfl⟩, ⟨_, rfl⟩, ⟨_, rfl⟩, ⟨_, rfl⟩⟩

theorem witness_RepeatedAccesses :
    (1#4 ≠ 0 ∧ ∃ t, idleUnit.hostWrite 1 ⟨32, 2⟩ = .next t) ∧ (15#4 ≠ 0 ∧ ∃ t, idleUnit.hostWrite 15 ⟨32, 2⟩ = .next t)
    ∧ ∃ t u, idleUnit.status.busy = false ∧ Legal 7#32 ∧ idleUnit.hostWrite 0 ⟨32, 7#32⟩ = .next t
      ∧ exec .decrypt t = .next u :=
  ⟨⟨by decide, _, rfl⟩, ⟨by decide, _, rfl⟩, _, _, rfl, legal_seven, rfl, rfl⟩

theorem witness_StatusWordLayout : (0xFFFFFFFB#32).getLsbD 2 = false := by decide

theorem witness_CfgIsConstant : EveryTurnSteps := everyTurnSteps
theorem witness_BusyIsWrittenByAcceptCompletionAndReset : EveryTurnSteps := everyTurnSteps
theorem witness_DoneIsSetByCompletionAndIllegalWord : EveryTurnSteps := everyTurnSteps
theorem witness_ErrAndErrcodeAreWrittenTogether : EveryTurnSteps := everyTurnSteps
theorem witness_OvrIsSetByAnOverrunAlone : EveryTurnSteps := everyTurnSteps
theorem witness_LastopIsTheWordTakenWhileIdle : EveryTurnSteps := everyTurnSteps
theorem witness_ResultRegistersFollowTheCompletions : EveryTurnSteps
    ∧ ∃ o, decodeOpcode busyUnit.lop = some .decrypt ∧ cmdOutcome .decrypt busyUnit.width busyUnit.operands = .ok o :=
  ⟨everyTurnSteps, { res0 := some (.unsigned 25), res1 := some (.unsigned 0), res2 := some (.unsigned 2), multi := true },
    rfl, by decide +kernel⟩
theorem witness_LatchIsWrittenByAcceptAndReadByCompletion : EveryTurnSteps := everyTurnSteps

/-- The candidates of `c = 9` under `(7, 11)` (ROOTS #1): two distinct values are in range. -/
theorem busy_candidates : ChecksPass busyUnit ∧ CandidatesAre busyUnit ![25, 74, 3, 52]
    ∧ inRange ![25, 74, 3, 52] = {0, 2} ∧ 2 ≤ ((inRange ![25, 74, 3, 52]).image ![25, 74, 3, 52]).card := by
  refine ⟨?_, ?_, by decide +kernel, by decide +kernel⟩
  · unfold ChecksPass; decide +kernel
  · dsimp only [CandidatesAre, Combines, rp, rq]; decide +kernel

/-- No candidate of `c = 729` under `(43, 47)` is in range (ROOTS #11), 27 being the least of them. -/
theorem none_in_range : ChecksPass (running .decrypt 16 729 0 43 47)
    ∧ CandidatesAre (running .decrypt 16 729 0 43 47) ![403, 1994, 27, 1618] ∧ inRange ![403, 1994, 27, 1618] = ∅ := by
  refine ⟨?_, ?_, by decide +kernel⟩
  · unfold ChecksPass; decide +kernel
  · dsimp only [CandidatesAre, Combines, rp, rq]; decide +kernel

/-- The last candidate of `c = 676` under `(43, 47)` is 26, the greatest symbol (ROOTS #12). -/
theorem last_in_range : ChecksPass (running .decrypt 16 676 0 43 47)
    ∧ CandidatesAre (running .decrypt 16 676 0 43 47) ![1995, 1436, 585, 26]
    ∧ 3 ∈ inRange ![1995, 1436, 585, 26] ∧ ∀ j, j < 3 → j ∉ inRange ![1995, 1436, 585, 26] := by
  refine ⟨?_, ?_, by decide +kernel, by decide +kernel⟩
  · unfold ChecksPass; decide +kernel
  · dsimp only [CandidatesAre, Combines, rp, rq]; decide +kernel

theorem witness_MultiIsSetByAMultiHitAlone :
    ((withTurns busyUnit [.engine]).nextTurn = .engine ∧ (∃ t, step (withTurns busyUnit [.engine]) = .next t)
      ∧ busyUnit.status.busy = true ∧ busyUnit.lop = 7 ∧ ChecksPass busyUnit
      ∧ ∃ cand, CandidatesAre busyUnit cand ∧ 2 ≤ ((inRange cand).image cand).card)
    ∧ EveryTurnSteps :=
  ⟨⟨rfl, ⟨_, rfl⟩, rfl, rfl, busy_candidates.1, _, busy_candidates.2.1, busy_candidates.2.2.2⟩, everyTurnSteps⟩

theorem witness_OperandRegistersFollowTheHost :
    DataReg.opq ∈ [DataReg.opa, .opb, .opm, .opq] ∧ EveryTurnSteps
    ∧ (withTurns busyUnit [.write 7 ⟨16, 65535⟩]).nextTurn = .write (slotOf .opq) ⟨16, 65535⟩ :=
  ⟨by decide, everyTurnSteps, rfl⟩

theorem witness_ResetAbandonsTheRunningCommand :
    (withTurns busyUnit [.reset]).turns = .reset :: [] ∧ (withTurns busyUnit [.reset, .engine]).turns = .reset :: [.engine]
    ∧ ∃ t, exec .decrypt busyUnit = .next t :=
  ⟨rfl, rfl, _, rfl⟩

theorem witness_ResetOperandsGiveModulusZero : widthWellFormed 8 = true ∧ widthWellFormed 65535 = true
    ∧ Instr.decrypt ≠ .egcd := by decide

theorem witness_ModpowGivesThePower : uval (running .modpow 16 0 0 0 0).sm = 0 ∧ uval (running .modpow 16 0 0 1 0).sm ≠ 0
    ∧ uval (running .modpow 16 65535 65535 65535 0).sm ≠ 0 := by decide

theorem witness_SqrGivesTheSquare : uval (running .sqr 16 9 0 0 0).sm = 0 ∧ uval (running .sqr 16 9 2 1 0).sm ≠ 0
    ∧ uval (running .sqr 16 9 2 1 0).sb = 2 := by decide

theorem witness_EgcdGivesTheTriple : widthWellFormed (running .egcd 8 255 254 0 0).width = true
    ∧ widthWellFormed (running .egcd 65535 3 2 0 0).width = true ∧ 0 < 1 ∧ 254 < 255 := by decide

theorem witness_EgcdFollowsTheRecursion : (46 : Nat) ≠ 0 ∧ (1 : Nat) ≠ 0 := by decide

theorem witness_CoefficientsFitTheRegister :
    (widthWellFormed 8 = true ∧ 255 < 2 ^ 8 ∧ 254 < 2 ^ 8 ∧ widthWellFormed (running .egcd 8 255 254 0 0).width = true)
    ∧ ¬ ((egcd (uval (running .egcd 1 1 0 0 0).sa) (uval (running .egcd 1 1 0 0 0).sb)).2.1.natAbs
          ≤ 2 ^ ((running .egcd 1 1 0 0 0).width - 1) - 1
        ∧ (egcd (uval (running .egcd 1 1 0 0 0).sa) (uval (running .egcd 1 1 0 0 0).sb)).2.2.natAbs
          ≤ 2 ^ ((running .egcd 1 1 0 0 0).width - 1) - 1) := by decide +kernel

theorem witness_ModinvGivesTheInverse :
    uval (running .modinv 16 1 0 0 0).sm = 0
    ∧ (uval (running .modinv 16 0 0 5 0).sm ≠ 0
      ∧ Nat.gcd (uval (running .modinv 16 0 0 5 0).sa) (uval (running .modinv 16 0 0 5 0).sm) ≠ 1)
    ∧ uval (running .modinv 16 0 0 1 0).sm ≠ 0
    ∧ Nat.gcd (uval (running .modinv 16 0 0 1 0).sa) (uval (running .modinv 16 0 0 1 0).sm) = 1 := by decide +kernel

theorem witness_InverseIsUniqueAndIndependentOfThePair : 0 < 1 ∧ Nat.gcd 0 5 ≠ 1 ∧ Nat.gcd 0 1 = 1 ∧ Nat.gcd 3 11 = 1
    ∧ (4 < 11 ∧ 3 * 4 % 11 = 1 % 11) ∧ (3 : Int) * 15 + 11 * (-4) = 1 := by decide +kernel

/-- The products 65535 and 65536 lie on either side of the bound `2^16`. -/
theorem witness_CrtGivesTheCombination :
    uval (running .crt 16 1 1 0 5).sm = 0 ∧ uval (running .crt 16 1 1 5 0).sq = 0
    ∧ 2 ^ 16 ≤ uval (running .crt 16 1 1 256 256).sm * uval (running .crt 16 1 1 256 256).sq
    ∧ (uval (running .crt 16 1 1 6 9).sm * uval (running .crt 16 1 1 6 9).sq < 2 ^ 16
      ∧ Nat.gcd (uval (running .crt 16 1 1 6 9).sm) (uval (running .crt 16 1 1 6 9).sq) ≠ 1)
    ∧ uval (running .crt 16 1 1 255 257).sm * uval (running .crt 16 1 1 255 257).sq < 2 ^ 16
    ∧ Nat.gcd (uval (running .crt 16 1 1 255 257).sm) (uval (running .crt 16 1 1 255 257).sq) = 1 := by decide +kernel

theorem witness_CrtIsTheUniqueCombination : (0 < 6 ∧ 0 < 9 ∧ Nat.gcd 6 9 ≠ 1) ∧ (0 < 7 ∧ 0 < 11 ∧ Nat.gcd 7 11 = 1)
    ∧ Combines 58 9 3 7 11 := by
  unfold Combines; decide +kernel

/-- The four checks, each at the edge of its range; the last one passes at `c = 76`. -/
theorem witness_RootCommandsCheckTheirInputsInOrder :
    Instr.decrypt ∈ [Instr.roots, .decrypt]
    ∧ uval (running .roots 16 0 0 0 5).sm = 0
    ∧ 2 ^ 16 ≤ uval (running .roots 16 5 0 256 256).sm * uval (running .roots 16 5 0 256 256).sq
    ∧ uval (running .roots 16 77 0 7 11).sm * uval (running .roots 16 77 0 7 11).sq ≤ uval (running .roots 16 77 0 7 11).sa
    ∧ (uval (running .roots 16 48 0 7 7).sa < uval (running .roots 16 48 0 7 7).sm * uval (running .roots 16 48 0 7 7).sq
      ∧ Nat.gcd (uval (running .roots 16 48 0 7 7).sm) (uval (running .roots 16 48 0 7 7).sq) ≠ 1) := by decide +kernel

theorem witness_RootsGivesTheFourCandidates : ChecksPass (running .roots 16 76 0 7 11)
    ∧ ChecksPass (running .roots 16 3 0 3 7) ∧ rp (running .roots 16 3 0 3 7) = 0 := by
  unfold ChecksPass rp; decide +kernel

theorem witness_CandidatesAreSquareRoots :
    ((7 : Nat).Prime ∧ 7 % 4 = 3 ∧ ∃ y, y * y % 7 = 9 % 7)
    ∧ ChecksPass busyUnit ∧ rp busyUnit * rp busyUnit % uval busyUnit.sm = uval busyUnit.sa % uval busyUnit.sm
    ∧ rq busyUnit * rq busyUnit % uval busyUnit.sq = uval busyUnit.sa % uval busyUnit.sq :=
  ⟨⟨by norm_num, rfl, 3, rfl⟩, busy_candidates.1, by decide +kernel, by decide +kernel⟩

theorem witness_DecryptReturnsTheFirstCandidateInRange : widthWellFormed busyUnit.width = true
    ∧ (ChecksPass busyUnit ∧ ∃ cand, CandidatesAre busyUnit cand ∧ 0 ∈ inRange cand ∧ ∀ j, j < 0 → j ∉ inRange cand)
    ∧ (ChecksPass (running .decrypt 16 676 0 43 47) ∧ ∃ cand, CandidatesAre (running .decrypt 16 676 0 43 47) cand
      ∧ 3 ∈ inRange cand ∧ ∀ j, j < 3 → j ∉ inRange cand)
    ∧ ChecksPass (running .decrypt 16 729 0 43 47) ∧ ∃ cand, CandidatesAre (running .decrypt 16 729 0 43 47) cand
      ∧ inRange cand = ∅ :=
  ⟨rfl, ⟨busy_candidates.1, _, busy_candidates.2.1, by rw [busy_candidates.2.2.1]; decide, by intro j hj; simp at hj⟩,
    ⟨last_in_range.1, _, last_in_range.2.1, last_in_range.2.2⟩, none_in_range.1, _, none_in_range.2⟩

/-- Two widths at which `7 * 11` fits, and two at which `251 * 263` does not. -/
theorem witness_RootCommandsAreDeterministic :
    Instr.roots ∈ [Instr.roots, .decrypt]
    ∧ (widthWellFormed (running .roots 8 9 0 7 11).width = true ∧ widthWellFormed (running .roots 16 9 0 7 11).width = true
      ∧ uval (running .roots 8 9 0 7 11).sa = uval (running .roots 16 9 0 7 11).sa
      ∧ uval (running .roots 8 9 0 7 11).sm = uval (running .roots 16 9 0 7 11).sm
      ∧ uval (running .roots 8 9 0 7 11).sq = uval (running .roots 16 9 0 7 11).sq
      ∧ ¬ 2 ^ 8 ≤ 7 * 11 ∧ ¬ 2 ^ 16 ≤ 7 * 11)
    ∧ 2 ^ 15 ≤ 251 * 263 ∧ 2 ^ 16 ≤ 251 * 263 := by decide +kernel

/-- The symbol 26 is the only root in range of its square under `(43, 47)`; the second clause is `busyUnit`'s. -/
theorem witness_RoundTripUnderAUniqueRoot :
    (widthWellFormed busyUnit.width = true ∧ uval busyUnit.sa = 9 ∧ uval busyUnit.sm = 7 ∧ uval busyUnit.sq = 11) ∧
    let s := running .decrypt 16 676 0 43 47
    widthWellFormed s.width = true ∧ (uval s.sm).Prime ∧ (uval s.sq).Prime ∧ uval s.sm ≠ uval s.sq ∧ uval s.sm % 4 = 3
      ∧ uval s.sq % 4 = 3 ∧ 26 < uval s.sm * uval s.sq ∧ uval s.sm * uval s.sq < 2 ^ s.width ∧ 26 ≤ 26
      ∧ uval s.sa = 26 * 26 % (uval s.sm * uval s.sq)
      ∧ (∀ v, v ≤ 26 → v * v % (uval s.sm * uval s.sq) = uval s.sa → v = 26) := by
  refine ⟨by decide, ?_⟩
  intro s
  have hp : uval s.sm = 43 := by decide
  have hq : uval s.sq = 47 := by decide
  have ha : uval s.sa = 676 := by decide
  rw [hp, hq, ha]
  exact ⟨rfl, by norm_num, by norm_num, by decide, rfl, rfl, by decide, by decide +kernel, le_rfl, rfl, by decide +kernel⟩

/-- A state whose command fails with each code of 2 to 6, and one whose command does not fail. -/
def EveryOutcome : Prop :=
  (∃ t, exec .modpow (running .modpow 16 7 1 0 0) = .next t ∧ (t.status.err && t.status.errcode == 2) = true)
  ∧ (∃ t, exec .crt (running .crt 16 1 1 257 263) = .next t ∧ (t.status.err && t.status.errcode == 3) = true)
  ∧ (∃ t, exec .roots (running .roots 16 77 0 7 11) = .next t ∧ (t.status.err && t.status.errcode == 4) = true)
  ∧ (∃ t, exec .modinv (running .modinv 16 6 0 9 0) = .next t ∧ (t.status.err && t.status.errcode == 5) = true)
  ∧ (∃ t, exec .decrypt (running .decrypt 16 729 0 43 47) = .next t ∧ (t.status.err && t.status.errcode == 6) = true)
  ∧ ∃ t, exec .decrypt busyUnit = .next t ∧ (!t.status.err) = true

theorem everyOutcome : EveryOutcome :=
  ⟨leaves_next (p := fun t => t.status.err && t.status.errcode == 2) (by decide +kernel),
    leaves_next (p := fun t => t.status.err && t.status.errcode == 3) (by decide +kernel),
    leaves_next (p := fun t => t.status.err && t.status.errcode == 4) (by decide +kernel),
    leaves_next (p := fun t => t.status.err && t.status.errcode == 5) (by decide +kernel),
    leaves_next (p := fun t => t.status.err && t.status.errcode == 6) (by decide +kernel),
    leaves_next (p := fun t => !t.status.err) (by decide +kernel)⟩

theorem witness_TheLowestErrorThatAppliesIsReported : EveryOutcome := everyOutcome
theorem witness_ErrorsArePrecise : EveryOutcome := everyOutcome
theorem witness_SuccessWritesItsRegistersOnly : EveryOutcome := everyOutcome
theorem witness_AnErrorDoesNotBlockTheUnit : EveryOutcome ∧ Legal 7#32 ∧ (4#32).getLsbD 2 = true :=
  ⟨everyOutcome, legal_seven, rfl⟩

theorem witness_StepRunsTheLatchedCommand :
    ((withTurns busyUnit [.engine]).nextTurn = .engine ∧ (withTurns busyUnit []).nextTurn = .engine
      ∧ busyUnit.status.busy = true ∧ decodeOpcode busyUnit.lop = some .decrypt)
    ∧ idleUnit.status.busy = false ∧ (withTurns idleUnit [.read 1]).nextTurn = .read 1
    ∧ (withTurns idleUnit [.write 4 ⟨16, 1⟩]).nextTurn = .write 4 ⟨16, 1⟩
    ∧ (withTurns idleUnit [.reset]).nextTurn = .reset := ⟨⟨rfl, rfl, rfl, rfl⟩, rfl, rfl, rfl, rfl⟩

theorem witness_OperandWritesLeaveTheRunningCommandAlone :
    DataReg.opm ∈ [DataReg.opa, .opb, .opm, .opq] ∧ busyUnit.status.busy = true := by decide

theorem witness_AnyNumberOfPollsMayPrecedeTheCompletion : busyUnit.status.busy = true
    ∧ decodeOpcode busyUnit.lop = some .decrypt := ⟨rfl, rfl⟩

theorem witness_ResultsStayVisibleUntilTheNextCompletion :
    2 ≤ (withTurns busyUnit [.read 8, .write 8 ⟨16, 1⟩, .engine]).turns.length
    ∧ (∀ turn ∈ (withTurns busyUnit [.read 8, .write 8 ⟨16, 1⟩, .engine]).turns.take 2, turn ≠ .engine ∧ turn ≠ .reset)
    ∧ ∃ t, Host.Core.run core 2 (withTurns busyUnit [.read 8, .write 8 ⟨16, 1⟩, .engine]) = .next t :=
  ⟨by decide, by decide, _, rfl⟩

theorem witness_ResetStateIsLegal : widthWellFormed 8 = true ∧ widthWellFormed 65535 = true := by decide

/-- Legal states: after reset, while busy, after an error, after a multi-hit. -/
theorem witness_EveryStepKeepsTheInvariant :
    stateLegal State.reset = true ∧ stateLegal busyUnit = true ∧ stateLegal k10 = true
    ∧ stateLegal { busyUnit with status := busyUnit.status.succeed true } = true
    ∧ stateLegal (withTurns busyUnit [.engine]) = true ∧ EveryTurnSteps :=
  ⟨by decide +kernel, by decide +kernel, by decide +kernel, by decide +kernel, by decide +kernel, everyTurnSteps⟩

theorem witness_NoStepFaultsUnderTheInvariant :
    (stateLegal (withTurns busyUnit [.engine]) = true ∧ turnFits 16 (withTurns busyUnit [.engine]).nextTurn = true)
    ∧ stateLegal (withTurns idleUnit [.write 4 ⟨32, 0⟩]) = true
    ∧ turnFits 16 (withTurns idleUnit [.write 4 ⟨32, 0⟩]).nextTurn = false := by decide +kernel

/-- A run with accesses to make, and one that has ended at its start. -/
theorem witness_EveryRunEnds :
    (stateLegal (withTurns idleUnit [.reset]) = true ∧ hostLegal (withTurns idleUnit [.reset]) = true) ∧
    stateLegal (withTurns idleUnit [.write 0 ⟨32, 7⟩, .read 1]) = true
    ∧ hostLegal (withTurns idleUnit [.write 0 ⟨32, 7⟩, .read 1]) = true := by decide +kernel

theorem witness_InstancesAreIndependent :
    (∃ p', Platform.step [withTurns idleUnit [.read 1], busyUnit] 0 = .next p') ∧ 1 ≠ 0
    ∧ [withTurns idleUnit [.read 1], busyUnit][0]? = some (withTurns idleUnit [.read 1]) := ⟨⟨_, rfl⟩, by decide, rfl⟩

end Sys2Proof.Tests
end

section
/-! SUPPORT. Runs whose next turns are Host reads, and the completion after any number of polls of STATUS
(spec/00_scope.md R8, 30_encoding.md R68). -/

namespace Sys2Proof.Machine

/-- Bit 0 of the STATUS word is BUSY (spec/10_state.md R22). -/
theorem Status.word_getLsbD_zero (st : Status) : st.word.getLsbD 0 = st.busy := by
  rw [Status.word, BitVec.getLsbD_append]
  simp

/-- A run of one step is that step. -/
theorem run_one (s : State) : Host.Core.run Sys2Proof.core 1 s = step s := by
  cases h : step s with
  | next t => exact run_next h
  | fault f => exact run_fault h
  | refused r => exact run_refused h

/-- A step whose turn is a Host read records the value that stands at the slot (spec/20_memory.md R42). -/
theorem step_read (s : State) (i : BitVec 4) (ts : List Turn) (rs : List Reply) :
    step { s with turns := .read i :: ts, replies := rs }
      = .next { s with turns := ts, replies := rs ++ [⟨i, s.hostRead i⟩] } := rfl

/-- While BUSY = 1 the Engine's turn completes the command in the latch (spec/10_state.md R36). -/
theorem takeTurn_engine_of_busy {s : State} {i : Instr} (hb : s.status.busy = true) (hf : s.fetch = some i) :
    takeTurn .engine s = exec i s := by
  simp only [takeTurn, engineTurn, completeLatched, hb, hf, if_true]

/-- Reads of one slot, any number of them, record each time the value that stands there and change nothing else. -/
theorem run_replicate_read (s : State) (i : BitVec 4) (ts : List Turn) (k n : Nat) (rs : List Reply) :
    Host.Core.run Sys2Proof.core (n + k) { s with turns := List.replicate n (.read i) ++ ts, replies := rs }
      = Host.Core.run Sys2Proof.core k
          { s with turns := ts, replies := rs ++ List.replicate n ⟨i, s.hostRead i⟩ } := by
  induction n generalizing rs with
  | zero => simp
  | succ n ih =>
    have hread := run_next (n := n + k) (step_read s i (List.replicate n (.read i) ++ ts) rs)
    rw [ih, List.append_assoc] at hread
    rw [Nat.add_right_comm]
    exact hread

/-- Settles O48: the polls leave the unit as it was, so the Engine's turn after them is the completion. -/
theorem anyNumberOfPollsMayPrecedeTheCompletion : Obligations.AnyNumberOfPollsMayPrecedeTheCompletion := by
  unfold Obligations.AnyNumberOfPollsMayPrecedeTheCompletion
  intro n s i ts hbusy hlatch
  refine ⟨by rw [Status.word_getLsbD_zero, hbusy], ?_⟩
  rw [run_replicate_read, run_one, step_eq]
  exact takeTurn_engine_of_busy hbusy hlatch

end Sys2Proof.Machine
end

section
/-! SUPPORT. Legal command words, said three ways (spec/30_encoding.md R59), and the slots of the register space
(20_memory.md R40). -/

namespace Sys2Proof.Machine

open Sys2Proof.Claims

/-- The opcode map names a command exactly at 1 to 7 (R60, R61). -/
theorem decodeOpcode_isSome_iff (op : BitVec 4) : (decodeOpcode op).isSome = true ↔ 1 ≤ op.toNat ∧ op.toNat ≤ 7 := by
  revert op
  decide

theorem opcodeOf_toNat (w : BitVec 32) : (opcodeOf w).toNat = w.toNat % 16 := by
  simp [opcodeOf]

theorem rsvdOf_eq_zero_iff (w : BitVec 32) : rsvdOf w = 0 ↔ w.toNat / 16 = 0 := by
  have hw := w.isLt
  rw [rsvdOf, ← BitVec.toNat_inj, BitVec.extractLsb'_toNat, Nat.shiftRight_eq_div_pow]
  simp
  omega

/-- The decoder accepts exactly the words that `wordWellFormed` states. -/
theorem decode_ok_iff_wordWellFormed (w : BitVec 32) : (∃ i, decode w = .ok i) ↔ wordWellFormed w = true := by
  rw [wordWellFormed_iff, ← rsvdOf_eq_zero_iff, ← opcodeOf_toNat, ← decodeOpcode_isSome_iff]
  unfold decode
  split
  · next hr => cases decodeOpcode (opcodeOf w) <;> simp [hr]
  · next hr => simpa using fun h => absurd h hr

/-- R59's two fields and the number the word denotes say the same. -/
theorem legal_iff_wordWellFormed (w : BitVec 32) : Legal w ↔ wordWellFormed w = true := by
  have hop : (w.extractLsb 3 0).toNat = w.toNat % 16 := opcodeOf_toNat w
  have hrsvd : w.extractLsb 31 4 = 0 ↔ w.toNat / 16 = 0 := rsvdOf_eq_zero_iff w
  rw [Legal, wordWellFormed_iff, hop, hrsvd]
  simp only [List.mem_cons, List.not_mem_nil, or_false]
  omega

/-- A legal word's opcode names a command. -/
theorem decodeOpcode_of_wordWellFormed {w : BitVec 32} (h : wordWellFormed w = true) :
    ∃ i, decodeOpcode (opcodeOf w) = some i := by
  obtain ⟨i, hi⟩ := (decode_ok_iff_wordWellFormed w).2 h
  exact ⟨i, (decode_ok hi).2⟩

section CommandWrite
variable {s : State} {w : BitVec 32}

theorem State.commandWrite_of_busy (hb : s.status.busy = true) : s.commandWrite w = s.overrun := if_pos hb

theorem State.commandWrite_of_legal (hb : s.status.busy = false) (hw : wordWellFormed w = true) :
    s.commandWrite w = s.accept (opcodeOf w) := by
  obtain ⟨i, hi⟩ := (decode_ok_iff_wordWellFormed w).2 hw
  simp [State.commandWrite, hb, hi]

theorem State.commandWrite_of_illegal (hb : s.status.busy = false) (hw : wordWellFormed w = false) :
    s.commandWrite w = s.illegal (opcodeOf w) := by
  cases hd : decode w with
  | ok i => exact absurd ((decode_ok_iff_wordWellFormed w).1 ⟨i, hd⟩) (by simp [hw])
  | error e => simp [State.commandWrite, hb, hd]

/-- A Host write of a command word is never refused. -/
theorem State.hostWrite_command (s : State) (w : BitVec 32) : s.hostWrite 0 ⟨32, w⟩ = .next (s.commandWrite w) := by
  change Host.Outcome.next (s.commandWrite (w.setWidth 32)) = _
  rw [BitVec.setWidth_eq]

end CommandWrite

/-- A Host write of `v` to STATUS's slot (20_memory.md R41). -/
def State.clearStatus (s : State) (v : BitVec 32) : State := { s with status := s.status.clear v }

section ClearStatus
variable (s : State) (v : BitVec 32)

/-- A Host write of STATUS is never refused. -/
theorem State.hostWrite_status : s.hostWrite 1 ⟨32, v⟩ = .next (s.clearStatus v) := by
  change Host.Outcome.next (s.clearStatus (v.setWidth 32)) = _
  rw [BitVec.setWidth_eq]

@[simp] theorem State.clearStatus_width : (s.clearStatus v).width = s.width := rfl
@[simp] theorem State.clearStatus_x (r : DataReg) : (s.clearStatus v).x r = s.x r := s.withStatus_x _ r
@[simp] theorem State.clearStatus_status : (s.clearStatus v).status = s.status.clear v := rfl
@[simp] theorem State.clearStatus_lop : (s.clearStatus v).lop = s.lop := rfl
@[simp] theorem State.clearStatus_operands : (s.clearStatus v).operands = s.operands := rfl
@[simp] theorem State.clearStatus_turns : (s.clearStatus v).turns = s.turns := rfl
@[simp] theorem State.clearStatus_replies : (s.clearStatus v).replies = s.replies := rfl

end ClearStatus

section Slots

@[simp] theorem slotReg_slotOf (r : DataReg) : slotReg (slotOf r) = .data r := by cases r <;> rfl

theorem slotOf_of_slotReg {i : BitVec 4} {r : DataReg} (h : slotReg i = .data r) : i = slotOf r := by
  obtain ⟨i⟩ := i
  fin_cases i <;> cases h <;> rfl

@[simp] theorem slotOf_inj {r r' : DataReg} : slotOf r = slotOf r' ↔ r = r' :=
  ⟨fun h => by simpa using congrArg slotReg h, congrArg slotOf⟩

@[simp] theorem slotOf_ne_zero (r : DataReg) : slotOf r ≠ 0#4 := by cases r <;> decide

@[simp] theorem slotOf_ne_one (r : DataReg) : slotOf r ≠ 1#4 := by cases r <;> decide

@[simp] theorem slotWidth_slotOf (W : Nat) (r : DataReg) : slotWidth W (slotOf r) = W := by cases r <;> rfl

/-- CFG and the reserved slots are none of the slots whose write has an effect. -/
theorem ignoredSlot_ne {i : BitVec 4} (h : i ∈ [2#4, 3#4, 14#4, 15#4]) : i ≠ 0#4 ∧ i ≠ 1#4 ∧ ∀ r, i ≠ slotOf r := by
  have hreg : i ≠ 0#4 ∧ i ≠ 1#4 ∧ (slotReg i = .cfg ∨ slotReg i = .reserved) := by
    revert i
    decide
  obtain ⟨h0, h1, hreg⟩ := hreg
  refine ⟨h0, h1, ?_⟩
  rintro r rfl
  simp at hreg

theorem slotWidth_ignoredSlot (W : Nat) {i : BitVec 4} (h : i ∈ [2#4, 3#4, 14#4, 15#4]) : slotWidth W i = 32 := by
  rw [slotWidth_eq, if_neg]
  revert i
  decide

@[simp] theorem State.hostRead_slotOf (s : State) (r : DataReg) : s.hostRead (slotOf r) = ⟨s.width, s.data r⟩ := by
  cases r <;> rfl

end Slots

end Sys2Proof.Machine
end

section
/-! SUPPORT. What one turn does, as a relation with one case per rule of spec/10_state.md R31 to R36 and 20_memory.md R41:
the statements about a part of the state are case analyses of it. -/

namespace Sys2Proof.Machine

open Sys2Proof.Claims

/-- The turn `turn` takes `s` to `t`. -/
inductive Effect (s : State) : Turn → State → Prop
  | read (i : BitVec 4) : Effect s (.read i) (s.readTurn i)
  | overrun (w : BitVec 32) (busy : s.status.busy = true) : Effect s (.write 0 ⟨32, w⟩) s.overrun
  | accept (w : BitVec 32) (idle : s.status.busy = false) (legal : wordWellFormed w = true) :
      Effect s (.write 0 ⟨32, w⟩) (s.accept (opcodeOf w))
  | illegal (w : BitVec 32) (idle : s.status.busy = false) (illegal : wordWellFormed w = false) :
      Effect s (.write 0 ⟨32, w⟩) (s.illegal (opcodeOf w))
  | clear (v : BitVec 32) : Effect s (.write 1 ⟨32, v⟩) (s.clearStatus v)
  | data (r : DataReg) (v : BitVec s.width) : Effect s (.write (slotOf r) ⟨s.width, v⟩) (s.writeData r ⟨s.width, v⟩)
  | ignored (i : BitVec 4) (v : BitVec 32) (slot : i ∈ [2#4, 3#4, 14#4, 15#4]) : Effect s (.write i ⟨32, v⟩) s
  | reset : Effect s .reset s.applyReset
  | stutter (idle : s.status.busy = false) : Effect s .engine s
  | completion (i : Instr) (t : State) (busy : s.status.busy = true) (latched : decodeOpcode s.lop = some i)
      (completes : exec i s = .next t) : Effect s .engine t

/-- A CMD write of a word has one of the three effects of R33 to R35. -/
theorem Effect.command (s : State) (w : BitVec 32) : Effect s (.write 0 ⟨32, w⟩) (s.commandWrite w) := by
  cases hb : s.status.busy with
  | true => exact State.commandWrite_of_busy hb ▸ .overrun w hb
  | false =>
    cases hw : wordWellFormed w with
    | true => exact State.commandWrite_of_legal hb hw ▸ .accept w hb hw
    | false => exact State.commandWrite_of_illegal hb hw ▸ .illegal w hb hw

/-- A Host write of the slot's width has the effect of what stands at the slot. -/
theorem Effect.write (s : State) (i : BitVec 4) (v : Datum) (hw : v.width = slotWidth s.width i) :
    Effect s (.write i v) (s.slotWrite i v) := by
  obtain ⟨W, b⟩ := v
  obtain ⟨rfl, h⟩ | ⟨rfl, h⟩ | ⟨r, hr, h⟩ | ⟨hi, h⟩ := s.slotWrite_cases i ⟨W, b⟩
  · cases (show W = 32 from hw)
    rw [h, BitVec.setWidth_eq]
    exact .command s b
  · cases (show W = 32 from hw)
    rw [h, BitVec.setWidth_eq]
    exact .clear b
  · obtain rfl := slotOf_of_slotReg hr
    cases (show W = s.width by simpa using hw)
    rw [h]
    exact .data r b
  · cases (show W = 32 from hw.trans (slotWidth_ignoredSlot s.width hi))
    rw [h]
    exact .ignored i b hi

/-- A turn that answers a next state has its effect. -/
theorem effect_of_takeTurn {turn : Turn} {s t : State} (h : takeTurn turn s = .next t) : Effect s turn t := by
  obtain ⟨i, rfl, rfl⟩ | ⟨i, v, rfl, hw, rfl⟩ | ⟨rfl, rfl⟩ | ⟨rfl, hb, rfl⟩ | ⟨rfl, hb, i, hi, hx⟩ := takeTurn_next h
  · exact .read i
  · exact .write s i v hw
  · exact .reset
  · exact .stutter hb
  · exact .completion i t hb hi hx

/-- A turn with an effect answers that next state. -/
theorem Effect.takeTurn {turn : Turn} {s t : State} (h : Effect s turn t) : takeTurn turn s = .next t := by
  cases h with
  | read i => rfl
  | overrun w hb => exact (s.hostWrite_command w).trans (by rw [State.commandWrite_of_busy hb])
  | accept w hb hw => exact (s.hostWrite_command w).trans (by rw [State.commandWrite_of_legal hb hw])
  | illegal w hb hw => exact (s.hostWrite_command w).trans (by rw [State.commandWrite_of_illegal hb hw])
  | clear v => exact s.hostWrite_status v
  | data r v => simp [Machine.takeTurn, State.hostWrite, State.slotWrite]
  | ignored i v hi =>
    simp only [List.mem_cons, List.not_mem_nil, or_false] at hi
    obtain rfl | rfl | rfl | rfl := hi <;> rfl
  | reset => rfl
  | stutter hb => simp [Machine.takeTurn, engineTurn, hb]
  | completion i t hb hl hx => exact (takeTurn_engine_of_busy hb hl).trans hx

/-- The next turn of a step, and its effect on the state with that turn taken off. -/
theorem step_effect {s t : State} (h : step s = .next t) : ∃ turn, s.nextTurn = turn ∧ Effect s.popTurn turn t :=
  ⟨s.nextTurn, rfl, effect_of_takeTurn h⟩

end Sys2Proof.Machine
end

section
/-! SUPPORT. Which errors a command's function answers (spec/60_exceptions.md R94), and which results (30_encoding.md R65). -/

namespace Sys2Proof.Machine

open Sys2Proof.Safety Sys2Proof.Claims

/-- `inv` has one error. -/
theorem inv_error {a m : Nat} {c : ErrCode} (h : inv a m = .error c) : c = .noInverse := by
  unfold inv at h
  dsimp only at h
  split at h
  · cases h
  · cases h; rfl

/-- `crt` has the error of its inverses. -/
theorem crt_error {a1 a2 p q : Nat} {c : ErrCode} (h : crt a1 a2 p q = .error c) : c = .noInverse := by
  unfold crt at h
  split at h
  · next hu => cases h; exact inv_error hu
  · split at h
    · next hv => cases h; exact inv_error hv
    · cases h

theorem combineRoots_error {rp rq p q : Nat} {c : ErrCode} (h : combineRoots rp rq p q = .error c) :
    c = .noInverse := by
  unfold combineRoots at h
  split at h
  · next h0 => cases h; exact crt_error h0
  · split at h
    · next h1 => cases h; exact crt_error h1
    · split at h
      · next h2 => cases h; exact crt_error h2
      · split at h
        · next h3 => cases h; exact crt_error h3
        · cases h

/-- The errors of the checks of spec/42_root_finder.md R82. -/
def inputErrors : List ErrCode := [.modulusZero, .operandRange, .invalidCiphertext, .noInverse]

theorem checkInputs_error {W c p q : Nat} {e : ErrCode} (h : checkInputs W c p q = .error e) : e ∈ inputErrors := by
  unfold checkInputs at h
  repeat' split at h
  all_goals cases h
  all_goals decide

theorem findRoots_error {W c p q : Nat} {e : ErrCode} (h : findRoots W c p q = .error e) : e ∈ inputErrors := by
  unfold findRoots at h
  split at h
  · next hc => cases h; exact checkInputs_error hc
  · rw [combineRoots_error h]; decide

theorem mayRaise_of_inputError {e : ErrCode} (h : e ∈ inputErrors) :
    mayRaise (encodeOpcode .roots) e = true ∧ mayRaise (encodeOpcode .decrypt) e = true := by
  revert e
  decide

/-- A command's function answers no error but those its opcode may raise (60_exceptions.md R94). -/
theorem cmdOutcome_error_mayRaise {i : Instr} {W : Nat} {o : Operands} {c : ErrCode}
    (h : cmdOutcome i W o = .error c) : mayRaise (encodeOpcode i) c = true := by
  cases i with
  | modpow =>
    simp only [cmdOutcome, cmdModpow] at h
    split at h <;> cases h
    rfl
  | sqr =>
    simp only [cmdOutcome, cmdSqr] at h
    split at h <;> cases h
    rfl
  | egcd => cases h
  | modinv =>
    simp only [cmdOutcome, cmdModinv] at h
    split at h
    · cases h; rfl
    · split at h
      · next hi => cases h; rw [inv_error hi]; rfl
      · cases h
  | crt =>
    simp only [cmdOutcome, cmdCrt] at h
    split at h
    · cases h; rfl
    · split at h
      · cases h; rfl
      · split at h
        · cases h; rfl
        · split at h
          · next hx => cases h; rw [crt_error hx]; rfl
          · cases h
  | roots =>
    simp only [cmdOutcome, cmdRoots] at h
    split at h
    · next hr => cases h; exact (mayRaise_of_inputError (findRoots_error hr)).1
    · cases h
  | decrypt =>
    simp only [cmdOutcome, cmdDecrypt] at h
    split at h
    · next hr => cases h; exact (mayRaise_of_inputError (findRoots_error hr)).2
    · next R hr =>
      unfold scanRoots at h
      split at h <;> cases h
      rfl

/-- The results of a success: those its row of R65 names, and MULTI for DECRYPT alone. -/
def ResultsFit (i : Instr) (r : Results) : Prop :=
  (∀ reg, (named r reg).isSome = true ↔ reg ∈ writes i) ∧ (r.multi = true → i = .decrypt)

/-- One named result is the row of MODPOW, SQR, MODINV and CRT. -/
theorem resultsFit_single {i : Instr} (v : ResultValue) (hi : writes i = [.res0]) : ResultsFit i { res0 := some v } := by
  refine ⟨fun reg => ?_, fun h => by cases h⟩
  rw [hi]
  cases reg <;> simp [named]

theorem resultsFit_egcd (g x y : ResultValue) :
    ResultsFit .egcd { res0 := some g, res1 := some x, res2 := some y } :=
  ⟨fun reg => by cases reg <;> simp [named, writes], fun h => by cases h⟩

theorem resultsFit_roots (v0 v1 v2 v3 v4 v5 : ResultValue) : ResultsFit .roots
    { res0 := some v0, res1 := some v1, res2 := some v2, res3 := some v3, res4 := some v4, res5 := some v5 } :=
  ⟨fun reg => by cases reg <;> simp [named, writes], fun h => by cases h⟩

theorem resultsFit_decrypt (v pos n : ResultValue) (multi : Bool) :
    ResultsFit .decrypt { res0 := some v, res1 := some pos, res2 := some n, multi := multi } :=
  ⟨fun reg => by cases reg <;> simp [named, writes], fun _ => rfl⟩

/-- A success of each command has the results of its row. -/
theorem cmdOutcome_ok_resultsFit {i : Instr} {W : Nat} {o : Operands} {r : Results}
    (h : cmdOutcome i W o = .ok r) : ResultsFit i r := by
  cases i with
  | modpow =>
    simp only [cmdOutcome, cmdModpow] at h
    split at h <;> cases h
    exact resultsFit_single _ rfl
  | sqr =>
    simp only [cmdOutcome, cmdSqr] at h
    split at h <;> cases h
    exact resultsFit_single _ rfl
  | egcd => cases h; exact resultsFit_egcd _ _ _
  | modinv =>
    simp only [cmdOutcome, cmdModinv] at h
    split at h
    · cases h
    · split at h <;> cases h
      exact resultsFit_single _ rfl
  | crt =>
    simp only [cmdOutcome, cmdCrt] at h
    split at h
    · cases h
    · split at h
      · cases h
      · split at h
        · cases h
        · split at h <;> cases h
          exact resultsFit_single _ rfl
  | roots =>
    simp only [cmdOutcome, cmdRoots] at h
    split at h <;> cases h
    exact resultsFit_roots _ _ _ _ _ _
  | decrypt =>
    simp only [cmdOutcome, cmdDecrypt] at h
    split at h
    · cases h
    · unfold scanRoots at h
      split at h <;> cases h
      exact resultsFit_decrypt _ _ _ _

end Sys2Proof.Machine
end

section
/-! SUPPORT. The invariant of the unit: it holds after reset, and every effect of a turn keeps it. -/

namespace Sys2Proof.Safety

open Sys2Proof.Machine Sys2Proof.Claims

/-- The invariant reads the width, STATUS and LOP alone. -/
theorem stateLegal_congr {s t : State} (hw : t.width = s.width) (hs : t.status = s.status) (hl : t.lop = s.lop) :
    stateLegal t = stateLegal s := by
  unfold stateLegal busyLegal
  rw [hw, hs, hl]

/-- An idle unit whose STATUS shows no error and no multi-hit is legal. -/
theorem stateLegal_of_clear {s : State} (hw : widthWellFormed s.width = true) (hb : s.status.busy = false)
    (he : s.status.err = false) (hc : s.status.errcode = 0) (hm : s.status.multi = false) : stateLegal s = true :=
  (stateLegal_iff s).2 ⟨hw, busyLegal_of_idle hb, errorLegal_of_none he hc, by simp [multiLegal, hm]⟩

/-- Settles O50: STATUS is 0 after reset. -/
theorem resetStateIsLegal : Obligations.ResetStateIsLegal :=
  fun _ hw => stateLegal_of_clear hw rfl rfl rfl rfl

/-- The accept leaves the word's opcode in LOP and in LASTOP, and a clear STATUS (10_state.md R33). -/
theorem stateLegal_accept {s : State} {op : BitVec 4} (hw : widthWellFormed s.width = true)
    (hop : ∃ i, decodeOpcode op = some i) : stateLegal (s.accept op) = true :=
  (stateLegal_iff _).2 ⟨hw, (busyLegal_of_busy rfl).2 ⟨hop, rfl, rfl, rfl, rfl⟩, errorLegal_of_none rfl rfl, rfl⟩

/-- An illegal word may carry any opcode, and its code goes with all of them (R34). -/
theorem stateLegal_illegal {s : State} (op : BitVec 4) (hw : widthWellFormed s.width = true)
    (hb : s.status.busy = false) : stateLegal (s.illegal op) = true :=
  (stateLegal_iff _).2
    ⟨hw, busyLegal_of_idle hb, errorLegal_of_some (c := .illegalCommand) rfl rfl (mayRaise_illegalCommand op), rfl⟩

/-- The overrun writes OVR, which the invariant does not read (R35). -/
theorem stateLegal_overrun (s : State) : stateLegal s.overrun = stateLegal s := rfl

/-- A write of STATUS clears what the invariant allows to be clear. -/
theorem stateLegal_clear {s : State} (v : BitVec 32) (h : stateLegal s = true) :
    stateLegal (s.clearStatus v) = true := by
  obtain ⟨hw, hb, he, hm⟩ := (stateLegal_iff s).1 h
  refine (stateLegal_iff _).2 ⟨hw, ?_, errorLegal_clear v he, multiLegal_clear v hm⟩
  cases hbusy : s.status.busy with
  | false => exact busyLegal_of_idle hbusy
  | true =>
    obtain ⟨hop, hlast, hdone, herr, hmulti⟩ := (busyLegal_of_busy hbusy).1 hb
    exact (busyLegal_of_busy (s := s.clearStatus v) hbusy).2
      ⟨hop, hlast, by simp [Status.clear, hdone], by simp [Status.clear, herr], by simp [Status.clear, hmulti]⟩

/-- A completion raises an error the latched command may raise, and sets MULTI for a DECRYPT alone (R36). -/
theorem stateLegal_complete {s : State} {i : Instr} (hw : widthWellFormed s.width = true)
    (hlast : s.status.lastop = encodeOpcode i) :
    stateLegal (s.complete (cmdOutcome i s.width s.operands)) = true := by
  cases ho : cmdOutcome i s.width s.operands with
  | error c =>
    have hraise : mayRaise s.status.lastop c = true := hlast ▸ cmdOutcome_error_mayRaise ho
    exact (stateLegal_iff _).2 ⟨hw, busyLegal_of_idle rfl, errorLegal_of_some (c := c) rfl rfl hraise, rfl⟩
  | ok r =>
    obtain ⟨-, hmulti⟩ := cmdOutcome_ok_resultsFit ho
    refine (stateLegal_iff _).2 ⟨hw, busyLegal_of_idle rfl, errorLegal_of_none rfl rfl, ?_⟩
    cases hm : r.multi with
    | false => simp [multiLegal, Status.succeed, hm]
    | true => simp [multiLegal, Status.succeed, hlast, hmulti hm]

/-- Every effect of a turn keeps the invariant. -/
theorem stateLegal_of_effect {s t : State} {turn : Turn} (he : Effect s turn t) (h : stateLegal s = true) :
    stateLegal t = true := by
  obtain ⟨hw, hb, -, -⟩ := (stateLegal_iff s).1 h
  cases he with
  | read i => exact h
  | overrun w busy => rwa [stateLegal_overrun]
  | accept w idle legal => exact stateLegal_accept hw (decodeOpcode_of_wordWellFormed legal)
  | illegal w idle illegal => exact stateLegal_illegal _ hw idle
  | clear v => exact stateLegal_clear v h
  | data r v =>
    rwa [stateLegal_congr (State.writeData_width ..) (State.writeData_status ..) (State.writeData_lop ..)]
  | ignored i v slot => exact h
  | reset => exact stateLegal_of_clear hw rfl rfl rfl rfl
  | stutter idle => exact h
  | completion i t busy latched completes =>
    obtain ⟨-, hlast, -⟩ := (busyLegal_of_busy busy).1 hb
    rw [exec_next completes]
    exact stateLegal_complete hw (hlast.trans (decodeOpcode_eq_some latched))

/-- Settles O51, by the effects of a turn. -/
theorem everyStepKeepsTheInvariant : Obligations.EveryStepKeepsTheInvariant := by
  unfold Obligations.EveryStepKeepsTheInvariant
  intro s t hs h
  obtain ⟨turn, -, he⟩ := step_effect h
  exact stateLegal_of_effect he hs

end Sys2Proof.Safety
end

section
/-! SUPPORT. The statements about single accesses: the CMD write, the STATUS word, reset, and what a step is. -/

namespace Sys2Proof.Machine

open Sys2Proof.Claims

/-- A write of STATUS alone leaves all that a frame names. -/
theorem frameExcept_of_status (s : State) (st : Status) (rs : List DataReg) :
    FrameExcept s { s with status := st } rs :=
  ⟨rfl, fun r _ => State.withStatus_x s st r, rfl, rfl, rfl, rfl⟩

/-- Settles O4. -/
theorem acceptTakesTheSnapshot : Obligations.AcceptTakesTheSnapshot := by
  unfold Obligations.AcceptTakesTheSnapshot
  intro s w hb hw
  refine ⟨s.accept (opcodeOf w), ?_, rfl, s.accept_x _, rfl, rfl, rfl, rfl, rfl⟩
  rw [s.hostWrite_command, State.commandWrite_of_legal hb ((legal_iff_wordWellFormed w).1 hw)]

/-- Settles O5. -/
theorem illegalWordReportsAtOnce : Obligations.IllegalWordReportsAtOnce := by
  unfold Obligations.IllegalWordReportsAtOnce
  intro s w hb hw
  have hill : wordWellFormed w = false := by rwa [legal_iff_wordWellFormed, Bool.not_eq_true] at hw
  refine ⟨s.illegal (opcodeOf w), ?_, ⟨frameExcept_of_status s _ [], rfl⟩, hb⟩
  rw [s.hostWrite_command, State.commandWrite_of_illegal hb hill]

/-- Settles O6. -/
theorem commandWriteWhileBusySetsOvrOnly : Obligations.CommandWriteWhileBusySetsOvrOnly := by
  unfold Obligations.CommandWriteWhileBusySetsOvrOnly
  intro s w hb
  refine ⟨s.overrun, ?_, frameExcept_of_status s _ [], rfl⟩
  rw [s.hostWrite_command, State.commandWrite_of_busy hb]

/-- The STATUS word, bit by bit (spec/10_state.md R22). -/
theorem Status.word_getLsbD (st : Status) {k : Nat} (hk : k < 32) : st.word.getLsbD k =
    if k = 0 then st.busy else if k = 1 then st.done else if k = 2 then st.err else if k = 3 then st.multi
    else if k = 4 then st.ovr else if k < 8 then false else if k < 12 then st.errcode.getLsbD (k - 8)
    else if k < 16 then false else if k < 20 then st.lastop.getLsbD (k - 16) else false := by
  rw [Status.word, BitVec.getLsbD_append]
  simp only [BitVec.getLsbD_append, BitVec.getLsbD_ofBool, BitVec.getLsbD_ofNat, Nat.zero_testBit, Bool.and_false]
  interval_cases k <;> simp

theorem Status.word_reset : Status.reset.word = 0 := by decide

/-- A write of STATUS reads bits 4:1 of the value alone (R30). -/
theorem Status.clear_mask (st : Status) (v : BitVec 32) : st.clear (v &&& 0x1E) = st.clear v := by
  simp [Status.clear]

/-- Settles O12. -/
theorem statusWordLayout : Obligations.StatusWordLayout := by
  unfold Obligations.StatusWordLayout
  refine ⟨fun st => ?_, fun s v => ?_, fun w => Status.word_reset⟩
  · refine ⟨st.word_getLsbD (k := 0) (by decide), st.word_getLsbD (k := 1) (by decide),
      st.word_getLsbD (k := 2) (by decide), st.word_getLsbD (k := 3) (by decide),
      st.word_getLsbD (k := 4) (by decide), ?_, ?_, ?_, ?_, ?_⟩
    all_goals
      refine BitVec.eq_of_getLsbD_eq fun i hi => ?_
      rw [BitVec.getLsbD_extractLsb, st.word_getLsbD (by omega)]
      interval_cases i <;> rfl
  · refine ⟨_, s.hostWrite_status v, rfl, rfl, rfl, rfl, rfl, rfl, fun h => if_neg (h ▸ Bool.false_ne_true), ?_⟩
    rw [s.hostWrite_status, State.clearStatus, Status.clear_mask, State.clearStatus]

/-- Settles O23. -/
theorem resetLeavesTheResetValues : Obligations.ResetLeavesTheResetValues := by
  unfold Obligations.ResetLeavesTheResetValues
  intro w
  exact ⟨(State.resetAt w).applyReset_x, Status.word_reset, rfl, rfl, (State.resetAt w).applyReset_operands, rfl⟩

/-- Settles O45. -/
theorem stepRunsTheLatchedCommand : Obligations.StepRunsTheLatchedCommand := by
  unfold Obligations.StepRunsTheLatchedCommand
  intro s
  refine ⟨fun i ht hb hl => ?_, fun ht hb => ?_, fun i ht => ?_, fun i v ht => ?_, fun ht => ?_⟩ <;> rw [step_eq, ht]
  · exact takeTurn_engine_of_busy hb hl
  · exact (Effect.stutter (s := s.popTurn) hb).takeTurn
  · rfl
  · rfl
  · rfl

/-- With the Engine to move first, a step is the Engine's turn. -/
theorem step_engineFirst (s : State) (ts : List Turn) :
    step { s with turns := engineFirst ts } = takeTurn .engine { s with turns := ts } := by
  cases ts <;> rfl

/-- Settles O46. -/
theorem placedWordRunsNext : Obligations.PlacedWordRunsNext := by
  unfold Obligations.PlacedWordRunsNext
  intro s i
  have hword : tableWord 32 (encode i).toNat = encode i := by
    simp [tableWord, Nat.mod_eq_of_lt (encode i).isLt]
  have hdecode : decode (encode i) = .ok i := by cases i <;> rfl
  refine ⟨by rw [decodeTableWord, hword, hdecode], ?_⟩
  have hplace : s.withFetchWord 32 (encode i).toNat
      = { s.accept (encodeOpcode i) with turns := engineFirst s.turns } := by
    rw [State.withFetchWord, hword, placeCommand, hdecode, opcodeOf_encode]
  rw [hplace, step_engineFirst]
  exact takeTurn_engine_of_busy rfl (decodeOpcode_encodeOpcode i)

end Sys2Proof.Machine
end

section
/-! SUPPORT. What each step does to each field of STATUS, to CFG, to the data registers and to the latch: case analyses of
the effects of a turn. -/

namespace Sys2Proof.Machine

open Sys2Proof.Claims

/-- A Host write to CFG's slot is ignored (spec/10_state.md R31). -/
theorem State.hostWrite_cfg (s : State) (v : BitVec 32) : s.hostWrite 2 ⟨32, v⟩ = .next s := rfl

/-- Settles O13: CFG is computed from the width, which every step keeps. -/
theorem cfgIsConstant : Obligations.CfgIsConstant := by
  unfold Obligations.CfgIsConstant
  intro s
  refine ⟨?_, ?_, s.hostWrite_cfg, fun t h => ?_⟩
  · apply BitVec.eq_of_getLsbD_eq
    intro k hk
    simp [State.cfg, hk]
  · apply BitVec.eq_of_getLsbD_eq
    intro k hk
    simp [State.cfg, hk]
  · have hw := (step_keeps h).1
    exact ⟨by rw [State.cfg, State.cfg, hw], hw⟩

/-- A completion lowers BUSY (R36). -/
@[simp] theorem State.complete_busy (s : State) (o : CmdOutcome) : (s.complete o).status.busy = false := by
  cases o <;> rfl

/-- A completion sets DONE (R36). -/
@[simp] theorem State.complete_done (s : State) (o : CmdOutcome) : (s.complete o).status.done = true := by
  cases o <;> rfl

@[simp] theorem State.complete_ovr (s : State) (o : CmdOutcome) : (s.complete o).status.ovr = s.status.ovr := by
  cases o <;> rfl

@[simp] theorem State.complete_lastop (s : State) (o : CmdOutcome) :
    (s.complete o).status.lastop = s.status.lastop := by
  cases o <;> rfl

/-- Settles O14. -/
theorem busyIsWrittenByAcceptCompletionAndReset : Obligations.BusyIsWrittenByAcceptCompletionAndReset := by
  unfold Obligations.BusyIsWrittenByAcceptCompletionAndReset
  intro s t h
  obtain ⟨turn, hturn, he⟩ := step_effect h
  rw [hturn]
  cases he with
  | read i => rfl
  | overrun w busy => simp_all [Status.overrun]
  | accept w idle legal => simp [Status.accept, legal]
  | illegal w idle illegal => simp [Status.illegal, illegal]
  | clear v => rfl
  | data r v => simp
  | ignored i v slot => simp [(ignoredSlot_ne slot).1]
  | reset => rfl
  | stutter idle => exact idle
  | completion i t busy latched completes => simp [exec_next completes]

/-- Settles O15. -/
theorem doneIsSetByCompletionAndIllegalWord : Obligations.DoneIsSetByCompletionAndIllegalWord := by
  unfold Obligations.DoneIsSetByCompletionAndIllegalWord
  intro s t h
  obtain ⟨turn, hturn, he⟩ := step_effect h
  rw [hturn]
  cases he with
  | read i => rfl
  | overrun w busy => simp_all [Status.overrun]
  | accept w idle legal => simp_all [Status.accept]
  | illegal w idle illegal => simp_all [Status.illegal]
  | clear v => rfl
  | data r v => simp
  | ignored i v slot => simp [ignoredSlot_ne slot]
  | reset => rfl
  | stutter idle => simp_all
  | completion i t busy latched completes => simp_all [exec_next completes]

/-- Settles O18. -/
theorem ovrIsSetByAnOverrunAlone : Obligations.OvrIsSetByAnOverrunAlone := by
  unfold Obligations.OvrIsSetByAnOverrunAlone
  intro s t h
  obtain ⟨turn, hturn, he⟩ := step_effect h
  rw [hturn]
  cases he with
  | read i => rfl
  | overrun w busy => simp_all [Status.overrun]
  | accept w idle legal => simp_all [Status.accept]
  | illegal w idle illegal => simp_all [Status.illegal]
  | clear v => rfl
  | data r v => simp
  | ignored i v slot => simp [ignoredSlot_ne slot]
  | reset => rfl
  | stutter idle => rfl
  | completion i t busy latched completes => simp [exec_next completes]

/-- Settles O19. -/
theorem lastopIsTheWordTakenWhileIdle : Obligations.LastopIsTheWordTakenWhileIdle := by
  unfold Obligations.LastopIsTheWordTakenWhileIdle
  intro s t h
  obtain ⟨turn, hturn, he⟩ := step_effect h
  rw [hturn]
  cases he with
  | read i => rfl
  | overrun w busy => simp_all [Status.overrun]
  | accept w idle legal => simp_all [Status.accept, opcodeOf]
  | illegal w idle illegal => simp_all [Status.illegal, opcodeOf]
  | clear v => rfl
  | data r v => simp
  | ignored i v slot => simp [ignoredSlot_ne slot]
  | reset => rfl
  | stutter idle => rfl
  | completion i t busy latched completes => simp [exec_next completes]

/-- The outcome of the latched command reads the latch and the width alone. -/
theorem latchedOutcome_of_latched {s : State} {i : Instr} (h : decodeOpcode s.lop = some i) :
    latchedOutcome s = some (cmdOutcome i s.width s.operands) := by
  simp [latchedOutcome, h]

/-- Settles O16. -/
theorem errAndErrcodeAreWrittenTogether : Obligations.ErrAndErrcodeAreWrittenTogether := by
  unfold Obligations.ErrAndErrcodeAreWrittenTogether
  intro s t h
  obtain ⟨turn, hturn, he⟩ := step_effect h
  rw [hturn]
  cases he with
  | read i => exact ⟨id, rfl⟩
  | overrun w busy => simp_all [Status.overrun]
  | accept w idle legal => simp_all [Status.accept]
  | illegal w idle illegal => simp_all [Status.illegal, ErrCode.code]
  | clear v => cases hv : v.getLsbD 2 <;> simp_all [Status.clear]
  | data r v => simp
  | ignored i v slot => simp [ignoredSlot_ne slot]
  | reset => exact ⟨fun _ _ => rfl, rfl⟩
  | stutter idle => simp_all
  | completion i t busy latched completes =>
    have ho := latchedOutcome_of_latched (s := s) latched
    rw [if_pos (show s.status.busy = true from busy), ho]
    obtain ⟨r, hr, rfl⟩ | ⟨c, hc, rfl⟩ := exec_cases completes
    · rw [show cmdOutcome i s.width s.operands = .ok r from hr]
      exact ⟨fun _ _ => rfl, rfl⟩
    · rw [show cmdOutcome i s.width s.operands = .error c from hc]
      exact ⟨fun _ herr => (by cases herr), rfl⟩

end Sys2Proof.Machine
end

section
/-! SUPPORT. What each step does to the data registers and to the Engine latch (spec/10_state.md R17, R18, R32). -/

namespace Sys2Proof.Machine

open Sys2Proof.Claims

section Commit
variable {o : Results} {r : DataReg} (s : State)

/-- A named register holds the named value after a commit (R18). -/
theorem State.commit_x_of_named {v : ResultValue} (h : named o r = some v) :
    (s.commit o).x r = uval (v.bits s.width) := by
  cases r
  case opa | opb | opm | opq => cases h
  all_goals
    rw [named] at h
    simp [h, commitReg]

/-- Any other register holds what it held. -/
theorem State.commit_x_of_unnamed (h : named o r = none) : (s.commit o).x r = s.x r := by
  cases r
  case opa | opb | opm | opq => rfl
  all_goals
    rw [named] at h
    simp [h, commitReg]
    rfl

end Commit

/-- A completion leaves every register that its command does not name as it was (R18, R36). -/
theorem complete_x_of_not_writes {s : State} {i : Instr} {r : DataReg} (hr : r ∉ writes i) :
    (s.complete (cmdOutcome i s.width s.operands)).x r = s.x r := by
  cases ho : cmdOutcome i s.width s.operands with
  | error c => exact s.raise_x c r
  | ok o =>
    have hnamed : named o r = none := by
      rw [← Option.not_isSome_iff_eq_none, (cmdOutcome_ok_resultsFit ho).1]
      exact hr
    rw [State.complete_ok, State.commit_x_of_unnamed s hnamed]

/-- No command names an operand register (30_encoding.md R65). -/
theorem not_writes_of_operand {r : DataReg} (h : r ∈ [DataReg.opa, .opb, .opm, .opq]) (i : Instr) : r ∉ writes i := by
  cases i <;> revert h <;> cases r <;> simp [writes]

theorem not_operand_of_result {r : DataReg} (h : r ∈ results) : r ∉ [DataReg.opa, .opb, .opm, .opq] := by
  revert h
  cases r <;> decide

/-- Settles O20. -/
theorem operandRegistersFollowTheHost : Obligations.OperandRegistersFollowTheHost := by
  unfold Obligations.OperandRegistersFollowTheHost
  intro r hr
  refine ⟨fun s => ⟨s.hostRead_slotOf r, uval_lt _⟩, fun s t h => ?_⟩
  obtain ⟨turn, hturn, he⟩ := step_effect h
  rw [hturn]
  cases he with
  | read i => simp
  | overrun w busy => simp [(slotOf_ne_zero r).symm]
  | accept w idle legal => simp [(slotOf_ne_zero r).symm]
  | illegal w idle illegal => simp [(slotOf_ne_zero r).symm]
  | clear v => simp [(slotOf_ne_one r).symm]
  | data r' v =>
    refine ⟨?_, by simp⟩
    rw [State.writeData_x _ _ _ _ rfl]
    by_cases hrr : r = r'
    · subst hrr
      simp [hr]
    · simp [hrr, Ne.symm hrr]
  | ignored i v slot => simp [ignoredSlot_ne slot]
  | reset => simp
  | stutter idle => simp
  | completion i t busy latched completes =>
    rw [exec_next completes, complete_x_of_not_writes (not_writes_of_operand hr i)]
    simp

/-- Settles O21. -/
theorem resultRegistersFollowTheCompletions : Obligations.ResultRegistersFollowTheCompletions := by
  unfold Obligations.ResultRegistersFollowTheCompletions
  intro r hr
  refine ⟨fun s => s.hostRead_slotOf r, fun s t h => ?_⟩
  obtain ⟨turn, hturn, he⟩ := step_effect h
  rw [hturn]
  cases he with
  | read i => simp
  | overrun w busy => simp
  | accept w idle legal => simp
  | illegal w idle illegal => simp
  | clear v => simp
  | data r' v =>
    have hx : (s.popTurn.writeData r' ⟨s.popTurn.width, v⟩).x r = s.x r := by
      rw [State.writeData_x _ _ _ _ rfl, if_neg, State.popTurn_x]
      rintro ⟨rfl, hop⟩
      exact not_operand_of_result hr hop
    exact ⟨by simp, fun _ => .inr hx, by simp⟩
  | ignored i v slot => simp
  | reset => simp
  | stutter idle => simp_all
  | completion i t busy latched completes =>
    have hbusy : s.status.busy = true := busy
    have hlatched : decodeOpcode s.lop = some i := latched
    refine ⟨nofun, fun _ => ?_, fun i' o _ _ hi' ho => ?_⟩
    · by_cases hw : r ∈ writes i
      · obtain ⟨o, -, rfl⟩ | ⟨c, -, rfl⟩ := exec_cases completes
        · exact .inl ⟨rfl, hbusy, rfl, i, hlatched, hw⟩
        · exact .inr (by simp)
      · rw [exec_next completes, complete_x_of_not_writes hw]
        exact .inr (by simp)
    · obtain rfl : i = i' := Option.some.inj (hlatched.symm.trans hi')
      refine ⟨(cmdOutcome_ok_resultsFit ho).1 r, ?_⟩
      rw [exec_next completes, State.popTurn_width, State.popTurn_operands, ho, State.complete_ok]
      cases hn : named o r with
      | none => rw [State.commit_x_of_unnamed _ hn, State.popTurn_x]
      | some v => rw [State.commit_x_of_named _ hn, State.popTurn_width]

/-- `s` with another latch. -/
def State.withLatch (s : State) (lop : BitVec 4) (sa sb sm sq : BitVec s.width) : State :=
  { s with lop := lop, sa := sa, sb := sb, sm := sm, sq := sq }

section Latch
variable (s : State) (lop : BitVec 4) (sa sb sm sq : BitVec s.width)

/-- The latch is no register of a slot (R32). -/
theorem State.hostRead_withLatch (i : BitVec 4) : (s.withLatch lop sa sb sm sq).hostRead i = s.hostRead i := by
  unfold State.hostRead
  cases slotReg i with
  | data r => cases r <;> rfl
  | _ => rfl

theorem State.sameButLatch_withLatch : SameButLatch s (s.withLatch lop sa sb sm sq) :=
  ⟨rfl, fun r => by cases r <;> rfl, rfl, rfl, rfl⟩

end Latch

/-- A turn that is no completion does to a state with another latch the same: it leaves the same state, or one with another
latch and BUSY as it was. -/
theorem Effect.withLatch {s t : State} {turn : Turn} (he : Effect s turn t)
    (hturn : ¬(turn = .engine ∧ s.status.busy = true)) (lop : BitVec 4) (sa sb sm sq : BitVec s.width) :
    ∃ t', Effect (s.withLatch lop sa sb sm sq) turn t'
      ∧ (t' = t ∨ t.status.busy = s.status.busy ∧ ∃ lop' sa' sb' sm' sq', t' = t.withLatch lop' sa' sb' sm' sq') := by
  cases he with
  | read i =>
    refine ⟨_, .read i, .inr ⟨rfl, lop, sa, sb, sm, sq, ?_⟩⟩
    rw [State.readTurn, State.hostRead_withLatch]
    rfl
  | overrun w busy => exact ⟨_, .overrun w busy, .inr ⟨rfl, lop, sa, sb, sm, sq, rfl⟩⟩
  | accept w idle legal => exact ⟨_, .accept w idle legal, .inl rfl⟩
  | illegal w idle illegal => exact ⟨_, .illegal w idle illegal, .inr ⟨rfl, lop, sa, sb, sm, sq, rfl⟩⟩
  | clear v => exact ⟨_, .clear v, .inr ⟨rfl, lop, sa, sb, sm, sq, rfl⟩⟩
  | data r v =>
    refine ⟨_, .data (s := s.withLatch lop sa sb sm sq) r v, .inr ⟨by simp, ?_⟩⟩
    cases r <;> exact ⟨lop, sa, sb, sm, sq, rfl⟩
  | ignored i v slot => exact ⟨_, .ignored i v slot, .inr ⟨rfl, lop, sa, sb, sm, sq, rfl⟩⟩
  | reset => exact ⟨_, .reset, .inl rfl⟩
  | stutter idle => exact ⟨_, .stutter idle, .inr ⟨rfl, lop, sa, sb, sm, sq, rfl⟩⟩
  | completion i t busy latched completes => exact absurd ⟨rfl, busy⟩ hturn

/-- Settles O22. -/
theorem latchIsWrittenByAcceptAndReadByCompletion : Obligations.LatchIsWrittenByAcceptAndReadByCompletion := by
  unfold Obligations.LatchIsWrittenByAcceptAndReadByCompletion
  refine ⟨fun s t h => ?_, fun s i lop sa sb sm sq => s.hostRead_withLatch lop sa sb sm sq i, fun s t lop sa sb sm sq hturn h => ?_⟩
  · obtain ⟨turn, hturn, he⟩ := step_effect h
    rw [hturn]
    cases he with
    | read i => rfl
    | overrun w busy => simp_all
    | accept w idle legal => simp_all [opcodeOf]
    | illegal w idle illegal => simp_all
    | clear v => simp
    | data r v => simp
    | ignored i v slot => simp [ignoredSlot_ne slot]
    | reset => simp
    | stutter idle => rfl
    | completion i t busy latched completes => simp [exec_next completes]
  · obtain ⟨t', he, hsame⟩ := (effect_of_takeTurn h).withLatch hturn lop sa sb sm sq
    refine ⟨t', he.takeTurn, ?_⟩
    obtain rfl | ⟨hbusy, lop', sa', sb', sm', sq', rfl⟩ := hsame
    · exact ⟨⟨rfl, fun _ => rfl, rfl, rfl, rfl⟩, fun _ _ => ⟨rfl, rfl⟩⟩
    · refine ⟨t.sameButLatch_withLatch .., fun hidle hb => ?_⟩
      rw [hbusy, State.popTurn_status, hidle] at hb
      cases hb

end Sys2Proof.Machine
end

section
/-! SUPPORT. The Chinese-remainder combination (spec/40_modular_primitives.md R73, R74), the four candidates
(42_root_finder.md R86) and the multi-hit (R89). -/

namespace Sys2Proof.Machine

open Sys2Proof.Claims

/-- What `inv` answers is an inverse (R73). -/
theorem inv_ok_modEq {a m r : Nat} (hm : 0 < m) (h : inv a m = .ok r) : a * r ≡ 1 [MOD m] := by
  have hbezout := egcdFuel_bezout (b := m) (f := m + 1) (a := a) (Nat.lt_succ_self m)
  unfold inv egcd at h
  revert h hbezout
  generalize egcdFuel (m + 1) a m = e
  obtain ⟨g, x, y⟩ := e
  dsimp only
  rintro h ⟨hg, hxy⟩
  by_cases hone : g = 1
  · rw [← hg, hone, Nat.cast_one] at hxy
    rw [if_pos hone] at h
    cases h
    rw [← Int.natCast_modEq_iff]
    push_cast
    rw [Int.toNat_of_nonneg (Int.emod_nonneg x (by omega))]
    calc (a : Int) * (x % m) ≡ a * x [ZMOD m] := (Int.mod_modEq x m).mul_left _
      _ = 1 + m * -y := by linear_combination hxy
      _ ≡ 1 [ZMOD m] := by simp
  · rw [if_neg hone] at h
    cases h

/-- With coprime moduli `inv` answers an inverse. -/
theorem inv_of_coprime {a m : Nat} (hm : 0 < m) (hg : Nat.gcd a m = 1) : ∃ r, inv a m = .ok r ∧ a * r ≡ 1 [MOD m] := by
  obtain ⟨-, hne⟩ | ⟨r, hr, -⟩ := inv_cases a m hm
  · exact absurd hg hne
  · exact ⟨r, hr, inv_ok_modEq hm hr⟩

/-- The source's formula combines the residues (R74). -/
theorem crt_of_coprime (a1 a2 : Nat) {p q : Nat} (hp : 0 < p) (hq : 0 < q) (hg : Nat.gcd p q = 1) :
    ∃ x, crt a1 a2 p q = .ok x ∧ Combines x a1 a2 p q := by
  obtain ⟨u, hu, hqu⟩ := inv_of_coprime hp (Nat.gcd_comm p q ▸ hg)
  obtain ⟨v, hv, hpv⟩ := inv_of_coprime hq hg
  refine ⟨(a1 * q * u + a2 * p * v) % (p * q), by rw [crt, hu, hv], Nat.mod_lt _ (Nat.mul_pos hp hq), ?_, ?_⟩
  · rw [Nat.mod_mul_right_mod]
    calc a1 * q * u + a2 * p * v = a1 * (q * u) + p * (a2 * v) := by ring
      _ ≡ a1 * 1 + 0 [MOD p] := (hqu.mul_left a1).add (Nat.modEq_zero_iff_dvd.2 (dvd_mul_right p _))
      _ = a1 := by ring
  · rw [Nat.mod_mul_left_mod]
    calc a1 * q * u + a2 * p * v = q * (a1 * u) + a2 * (p * v) := by ring
      _ ≡ 0 + a2 * 1 [MOD q] := (Nat.modEq_zero_iff_dvd.2 (dvd_mul_right q _)).add (hpv.mul_left a2)
      _ = a2 := by ring

/-- A pair of residues has one combination (R75). -/
theorem combines_unique {x y r r' p q : Nat} (hg : Nat.gcd p q = 1) (hx : Combines x r r' p q)
    (hy : Combines y r r' p q) : x = y := by
  obtain ⟨hxlt, hxp, hxq⟩ := hx
  obtain ⟨hylt, hyp, hyq⟩ := hy
  exact ((Nat.modEq_and_modEq_iff_modEq_mul hg).1 ⟨hxp.trans hyp.symm, hxq.trans hyq.symm⟩).eq_of_lt_of_lt hxlt hylt

/-- With coprime moduli the four combinations exist (R86). -/
theorem combineRoots_of_coprime (rp rq : Nat) {p q : Nat} (hp : 0 < p) (hq : 0 < q) (hg : Nat.gcd p q = 1) :
    ∃ R, combineRoots rp rq p q = .ok R
      ∧ Combines R.cand0 rp rq p q ∧ Combines R.cand1 rp (negRoot rq q) p q
      ∧ Combines R.cand2 (negRoot rp p) rq p q ∧ Combines R.cand3 (negRoot rp p) (negRoot rq q) p q := by
  obtain ⟨c0, h0, hc0⟩ := crt_of_coprime rp rq hp hq hg
  obtain ⟨c1, h1, hc1⟩ := crt_of_coprime rp (negRoot rq q) hp hq hg
  obtain ⟨c2, h2, hc2⟩ := crt_of_coprime (negRoot rp p) rq hp hq hg
  obtain ⟨c3, h3, hc3⟩ := crt_of_coprime (negRoot rp p) (negRoot rq q) hp hq hg
  exact ⟨⟨rp, rq, c0, c1, c2, c3⟩, by rw [combineRoots, h0, h1, h2, h3], hc0, hc1, hc2, hc3⟩

/-- The shared part of ROOTS and DECRYPT on the latch's operands. -/
def State.latchedRoots (s : State) : Except ErrCode RootSet :=
  Machine.findRoots s.width (uval s.sa) (uval s.sm) (uval s.sq)

/-- The checks of R82 are those that the root finder makes. -/
theorem checksPass_iff (s : State) :
    ChecksPass s ↔ checkInputs s.width (uval s.sa) (uval s.sm) (uval s.sq) = .ok () :=
  checkInputs_ok.symm

/-- When the checks pass the root finder answers the four candidates. -/
theorem latchedRoots_of_checksPass {s : State} (h : ChecksPass s) :
    ∃ R, s.latchedRoots = .ok R ∧ CandidatesAre s R.cand := by
  have hcheck := (checksPass_iff s).1 h
  obtain ⟨hp, hq, -, -, hg⟩ := h
  obtain ⟨R, hR, hcand⟩ := combineRoots_of_coprime (rp s) (rq s) (Nat.pos_of_ne_zero hp) (Nat.pos_of_ne_zero hq) hg
  refine ⟨R, ?_, hcand⟩
  rw [State.latchedRoots, Machine.findRoots, hcheck, halfRoot_eq, halfRoot_eq]
  exact hR

/-- When it answers candidates, the checks have passed. -/
theorem checksPass_of_latchedRoots_ok {s : State} {R : RootSet} (h : s.latchedRoots = .ok R) : ChecksPass s := by
  rw [State.latchedRoots, Machine.findRoots] at h
  rw [checksPass_iff]
  cases hc : checkInputs s.width (uval s.sa) (uval s.sm) (uval s.sq) with
  | error e => rw [hc] at h; cases h
  | ok u => rfl

/-- The candidates are determined by the operands. -/
theorem candidatesAre_unique {s : State} (hg : Nat.gcd (uval s.sm) (uval s.sq) = 1) {cand cand' : Fin 4 → Nat}
    (h : CandidatesAre s cand) (h' : CandidatesAre s cand') : cand = cand' := by
  obtain ⟨h0, h1, h2, h3⟩ := h
  obtain ⟨h0', h1', h2', h3'⟩ := h'
  funext k
  fin_cases k
  · exact combines_unique hg h0 h0'
  · exact combines_unique hg h1 h1'
  · exact combines_unique hg h2 h2'
  · exact combines_unique hg h3 h3'

/-- A multi-hit is two distinct values in range (R89). -/
theorem RootSet.multiHit_iff (R : RootSet) :
    R.multiHit = true ↔ 2 ≤ ((inRange R.cand).image R.cand).card := by
  have hmem : ∀ k, k ∈ inRange R.cand ↔ k ∈ R.hits := fun k => by
    rw [R.mem_hits, inRange, Finset.mem_filter]
    exact and_iff_right (Finset.mem_univ k)
  change R.multiHit = true ↔ 1 < _
  rw [Finset.one_lt_card]
  simp [RootSet.multiHit, hmem]

/-- DECRYPT's results carry MULTI exactly on a multi-hit (R89, R90). -/
theorem scanRoots_multi_iff (R : RootSet) :
    (∃ r, scanRoots R = .ok r ∧ r.multi = true) ↔ R.multiHit = true := by
  unfold scanRoots
  cases hh : R.hits with
  | nil => simp [RootSet.multiHit, hh]
  | cons k ks => simp

/-- A command's results carry MULTI exactly where it is a DECRYPT with a multi-hit. -/
theorem cmdOutcome_multi_iff (s : State) (i : Instr) :
    (∃ r, cmdOutcome i s.width s.operands = .ok r ∧ r.multi = true)
      ↔ i = .decrypt ∧ ∃ R, s.latchedRoots = .ok R ∧ R.multiHit = true := by
  have hdecrypt : (∃ r, cmdOutcome .decrypt s.width s.operands = .ok r ∧ r.multi = true)
      ↔ ∃ R, s.latchedRoots = .ok R ∧ R.multiHit = true := by
    change (∃ r, cmdDecrypt s.width s.operands = .ok r ∧ r.multi = true) ↔ _
    rw [cmdDecrypt, show Machine.findRoots s.width s.operands.a s.operands.m s.operands.q = s.latchedRoots from rfl]
    cases s.latchedRoots with
    | error e => simp
    | ok R => simp [scanRoots_multi_iff]
  constructor
  · rintro ⟨r, hr, hmulti⟩
    obtain rfl := (cmdOutcome_ok_resultsFit hr).2 hmulti
    exact ⟨rfl, hdecrypt.1 ⟨r, hr, hmulti⟩⟩
  · rintro ⟨rfl, h⟩
    exact hdecrypt.2 h

/-- The same in the terms of R89: the candidates that the operands determine. -/
theorem latchedRoots_multiHit_iff (s : State) : (∃ R, s.latchedRoots = .ok R ∧ R.multiHit = true) ↔
    ChecksPass s ∧ ∃ cand, CandidatesAre s cand ∧ 2 ≤ ((inRange cand).image cand).card := by
  constructor
  · rintro ⟨R, hR, hmulti⟩
    have hchecks := checksPass_of_latchedRoots_ok hR
    obtain ⟨R', hR', hcand⟩ := latchedRoots_of_checksPass hchecks
    obtain rfl : R = R' := Except.ok.inj (hR.symm.trans hR')
    exact ⟨hchecks, R.cand, hcand, R.multiHit_iff.1 hmulti⟩
  · rintro ⟨hchecks, cand, hcand, hcard⟩
    obtain ⟨R, hR, hcand'⟩ := latchedRoots_of_checksPass hchecks
    obtain ⟨-, -, -, -, hg⟩ := hchecks
    obtain rfl := candidatesAre_unique hg hcand hcand'
    exact ⟨R, hR, R.multiHit_iff.2 hcard⟩

/-- A completion leaves MULTI = 1 exactly with results that carry it (10_state.md R27, R36). -/
theorem State.complete_multi_iff (s : State) (o : CmdOutcome) :
    (s.complete o).status.multi = true ↔ ∃ r, o = .ok r ∧ r.multi = true := by
  cases o <;> simp [Status.succeed, Status.fail]

/-- The opcode of DECRYPT is 7 (30_encoding.md R60). -/
theorem lop_eq_seven_iff {s : State} {i : Instr} (h : decodeOpcode s.lop = some i) : s.lop = 7 ↔ i = .decrypt := by
  rw [decodeOpcode_eq_some h]
  cases i <;> decide

/-- Settles O17. -/
theorem multiIsSetByAMultiHitAlone : Obligations.MultiIsSetByAMultiHitAlone := by
  unfold Obligations.MultiIsSetByAMultiHitAlone
  intro s t h
  obtain ⟨turn, hturn, he⟩ := step_effect h
  rw [hturn]
  cases he with
  | read i => exact ⟨nofun, fun _ => rfl⟩
  | overrun w busy => simp_all [Status.overrun]
  | accept w idle legal => simp_all [Status.accept]
  | illegal w idle illegal => simp_all [Status.illegal]
  | clear v => exact ⟨nofun, fun _ => rfl⟩
  | data r v => simp
  | ignored i v slot => simp [ignoredSlot_ne slot]
  | reset => exact ⟨nofun, fun _ => rfl⟩
  | stutter idle => simp_all
  | completion i t busy latched completes =>
    refine ⟨fun _ _ => ?_, fun hidle => absurd (hidle rfl) (by simpa using busy)⟩
    rw [lop_eq_seven_iff (s := s) latched, ← latchedRoots_multiHit_iff, ← cmdOutcome_multi_iff, exec_next completes,
      State.complete_multi_iff]
    rfl

end Sys2Proof.Machine
end

section
/-! SUPPORT. Host accesses, slot by slot (spec/20_memory.md R41 to R43, R47, R48), and the units of a
platform (R56). -/

namespace Sys2Proof.Machine

open Sys2Proof.Claims

/-- CMD and the reserved slots read 0 (R42). -/
theorem State.hostRead_of_zeroSlot (s : State) {i : BitVec 4} (h : i ∈ [0#4, 3#4, 14#4, 15#4]) :
    s.hostRead i = ⟨32, 0⟩ := by
  simp only [List.mem_cons, List.not_mem_nil, or_false] at h
  obtain rfl | rfl | rfl | rfl := h <;> rfl

/-- A read returns a value of the slot's width (R43). -/
theorem State.hostRead_width (s : State) (i : BitVec 4) : (s.hostRead i).width = slotWidth s.width i := by
  unfold State.hostRead slotWidth
  cases slotReg i <;> rfl

/-- A read leaves what stands at every slot. -/
theorem State.hostRead_readTurn (s : State) (i j : BitVec 4) : (s.readTurn i).hostRead j = s.hostRead j := by
  unfold State.hostRead
  cases slotReg j with
  | data r => cases r <;> rfl
  | _ => rfl

/-- Settles O7: the value is the one that stands at the slot. -/
theorem hostReadReturnsTheSlot : Obligations.HostReadReturnsTheSlot := by
  unfold Obligations.HostReadReturnsTheSlot
  intro s i ts hturns
  refine ⟨s.hostRead i, ?_, s.hostRead_of_zeroSlot, ?_, ?_, ?_⟩
  · calc step s = step { s with turns := .read i :: ts } := by rw [← hturns]
      _ = _ := step_read s i ts s.replies
  · rintro rfl
    rfl
  · rintro rfl
    rfl
  · rintro r rfl
    exact s.hostRead_slotOf r

section HostWrite
variable (s : State) {i : BitVec 4}

/-- A value of the slot's width is written. -/
theorem State.hostWrite_of_width {v : Datum} (h : v.width = slotWidth s.width i) :
    s.hostWrite i v = .next (s.slotWrite i v) := if_pos h

/-- A value of another width is refused (R43). -/
theorem State.hostWrite_of_wrongWidth {v : Datum} (h : v.width ≠ slotWidth s.width i) :
    s.hostWrite i v = .refused .wrongWidth := if_neg h

/-- A write of the width W to a data slot is a write to the register there. -/
theorem State.hostWrite_slotOf (r : DataReg) {v : Datum} (h : v.width = s.width) :
    s.hostWrite (slotOf r) v = .next (s.writeData r v) := by
  rw [s.hostWrite_of_width (by rw [h, slotWidth_slotOf]), State.slotWrite, slotReg_slotOf]

/-- CFG and the reserved slots ignore a write (R41). -/
theorem State.hostWrite_ignoredSlot (h : i ∈ [2#4, 3#4, 14#4, 15#4]) (v : BitVec 32) :
    s.hostWrite i ⟨32, v⟩ = .next s :=
  (Effect.ignored i v h).takeTurn

/-- What holds of the state a CMD write answers holds of the one `commandWrite` leaves. -/
theorem State.of_hostWrite_command {w : BitVec 32} {P : State → Prop}
    (h : ∃ t, s.hostWrite 0 ⟨32, w⟩ = .next t ∧ P t) : P (s.commandWrite w) := by
  obtain ⟨t, ht, hP⟩ := h
  rw [s.hostWrite_command] at ht
  cases ht
  exact hP

end HostWrite

/-- Settles O9. -/
theorem wrongWidthIsRefused : Obligations.WrongWidthIsRefused := by
  unfold Obligations.WrongWidthIsRefused
  intro s i
  rw [← slotWidth_eq]
  refine ⟨s.hostRead_width i, fun v => ⟨⟨fun hrefused hw => ?_, s.hostWrite_of_wrongWidth⟩,
    fun hw => ⟨_, s.hostWrite_of_width hw⟩⟩⟩
  rw [s.hostWrite_of_width hw] at hrefused
  cases hrefused

/-- A write to a result register's slot is ignored (10_state.md R18). -/
theorem State.writeData_of_result (s : State) {r : DataReg} (h : r ∈ results) (v : Datum) : s.writeData r v = s := by
  revert h
  cases r
  case opa | opb | opm | opq => exact fun h => absurd h (by decide)
  all_goals exact fun _ => rfl

theorem frameExcept_refl (s : State) (rs : List DataReg) : FrameExcept s s rs :=
  ⟨rfl, fun _ _ => rfl, rfl, rfl, rfl, rfl⟩

/-- A write to a data slot changes at most the register there. -/
theorem frameExcept_writeData (s : State) (r : DataReg) {v : Datum} (hw : v.width = s.width) :
    FrameExcept s (s.writeData r v) [r] := by
  refine ⟨by simp, fun r' hr' => ?_, by simp, by simp, by simp, by simp⟩
  rw [State.writeData_x _ _ _ _ hw, if_neg fun h => hr' (List.mem_singleton.2 h.1)]

/-- An operand register holds the value written to it (10_state.md R17). -/
theorem State.writeData_x_of_operand (s : State) {r : DataReg} (h : r ∈ [DataReg.opa, .opb, .opm, .opq])
    (v : BitVec s.width) : (s.writeData r ⟨s.width, v⟩).x r = uval v := by
  rw [State.writeData_x _ _ _ _ rfl, if_pos ⟨rfl, h⟩]

/-- Settles O8: slot 0 by the three effects of a CMD write, the other slots by what stands there. -/
theorem hostWriteActsOnItsSlot : Obligations.HostWriteActsOnItsSlot := by
  unfold Obligations.HostWriteActsOnItsSlot
  intro s
  refine ⟨fun w => ⟨_, s.hostWrite_command w, fun hb hw => ?_, fun hb hw => ?_, fun hb => ?_⟩,
    fun v => ⟨_, s.hostWrite_status v, frameExcept_of_status s _ [], ?_, ?_, rfl, ?_, ?_, rfl, rfl⟩,
    fun r hr v => ⟨_, s.hostWrite_slotOf r rfl, s.writeData_x_of_operand hr v, frameExcept_writeData s r rfl, by simp⟩,
    fun i hi v => s.hostWrite_ignoredSlot hi v,
    fun r hr v => (s.hostWrite_slotOf r rfl).trans (congrArg _ (s.writeData_of_result hr _))⟩
  · exact s.of_hostWrite_command (acceptTakesTheSnapshot s w hb hw)
  · obtain ⟨t, ht, hreported, -⟩ := illegalWordReportsAtOnce s w hb hw
    exact s.of_hostWrite_command (P := fun t => ReportedIllegal s t _) ⟨t, ht, hreported⟩
  · exact s.of_hostWrite_command (commandWriteWhileBusySetsOvrOnly s w hb)
  all_goals simp [Status.clear, Bool.and_comm]

/-- The data slots from 8 on are those of the result registers. -/
theorem result_of_slotOf_mem {r : DataReg}
    (h : slotOf r ∈ [2#4, 3#4, 8#4, 9#4, 10#4, 11#4, 12#4, 13#4, 14#4, 15#4]) : r ∈ results := by
  revert h
  cases r <;> decide

/-- Settles O10, by what stands at the slot of a write. -/
theorem sideEffectsAreAtSlotsZeroAndOne : Obligations.SideEffectsAreAtSlotsZeroAndOne := by
  unfold Obligations.SideEffectsAreAtSlotsZeroAndOne
  intro s t i
  refine ⟨fun hturn hstep => ?_, fun v hwrite => ?_⟩
  · rw [step_eq, hturn] at hstep
    cases hstep
    exact ⟨_, frameExcept_refl s [], rfl, rfl, rfl⟩
  · obtain ⟨hwidth, rfl⟩ := State.hostWrite_next hwrite
    obtain ⟨rfl, -⟩ | ⟨rfl, hwritten⟩ | ⟨r, hr, hwritten⟩ | ⟨hi, hwritten⟩ := s.slotWrite_cases i v
    · exact ⟨by simp, fun r h => absurd h.symm (slotOf_ne_zero r), by simp⟩
    · rw [hwritten]
      exact ⟨fun _ => frameExcept_of_status s _ [], fun r h => absurd h.symm (slotOf_ne_one r), by simp⟩
    · obtain rfl := slotOf_of_slotReg hr
      rw [slotWidth_slotOf] at hwidth
      rw [hwritten]
      refine ⟨fun h => absurd h (slotOf_ne_one r), fun r' h => ?_,
        fun h => s.writeData_of_result (result_of_slotOf_mem h) v⟩
      obtain rfl := slotOf_inj.1 h
      exact ⟨frameExcept_writeData s r hwidth, s.writeData_status r v⟩
    · rw [hwritten]
      exact ⟨fun _ => frameExcept_refl s [], fun r _ => ⟨frameExcept_refl s [r], rfl⟩, fun _ => rfl⟩

/-- Clearing bits of STATUS twice clears them once. -/
theorem Status.clear_clear (st : Status) (v : BitVec 32) : (st.clear v).clear v = st.clear v := by
  simp only [Status.clear, Bool.and_assoc, Bool.and_self, Status.mk.injEq, true_and]
  split <;> simp

/-- Writing a register twice leaves what one write leaves. -/
theorem State.writeData_writeData (s : State) (r : DataReg) (v : Datum) :
    (s.writeData r v).writeData r v = s.writeData r v := by
  cases r <;> rfl

/-- CMD stands at slot 0 alone (R40). -/
theorem slotReg_ne_cmd {i : BitVec 4} (h : i ≠ 0) : slotReg i ≠ .cmd := by
  revert i
  decide

/-- A write to any slot but CMD's, repeated, leaves what the first one left (R48). -/
theorem State.slotWrite_slotWrite (s : State) {i : BitVec 4} (v : Datum) (hi : i ≠ 0) :
    (s.slotWrite i v).slotWrite i v = s.slotWrite i v := by
  have hcmd := slotReg_ne_cmd hi
  unfold State.slotWrite
  cases hreg : slotReg i with
  | cmd => exact absurd hreg hcmd
  | status => exact congrArg (fun st => { s with status := st }) (s.status.clear_clear _)
  | cfg => rfl
  | reserved => rfl
  | data r => exact s.writeData_writeData r v

theorem State.hostWrite_repeated {s t : State} {i : BitVec 4} {v : Datum} (hi : i ≠ 0)
    (h : s.hostWrite i v = .next t) : t.hostWrite i v = .next t := by
  obtain ⟨hwidth, rfl⟩ := State.hostWrite_next h
  obtain ⟨hkept, -⟩ := s.slotWrite_keeps i v
  rw [State.hostWrite_of_width _ (hwidth.trans (by rw [hkept])), s.slotWrite_slotWrite v hi]

/-- Settles O11. -/
theorem repeatedAccesses : Obligations.RepeatedAccesses := by
  unfold Obligations.RepeatedAccesses
  intro s t i
  refine ⟨s.hostRead_readTurn i i, fun v => State.hostWrite_repeated, fun w hidle hlegal h => ?_⟩
  rw [legal_iff_wordWellFormed] at hlegal
  rw [s.hostWrite_command, State.commandWrite_of_legal hidle hlegal] at h
  cases h
  have hbusy : (s.accept (opcodeOf w)).status.busy = true := rfl
  refine ⟨⟨_, State.hostWrite_command _ w, ?_⟩, fun j u hexec => ⟨_, u.hostWrite_command w, ?_⟩⟩
  · rw [State.commandWrite_of_busy hbusy]
    exact ⟨rfl, rfl⟩
  · have hdone : u.status.busy = false := by rw [exec_next hexec, State.complete_busy]
    rw [State.commandWrite_of_legal hdone hlegal]
    rfl

/-- A step of a platform that answers leaves it as it is, with no unit at the place named, or puts back there what the step
of that unit alone gives (R56). -/
theorem Platform.step_next {p p' : Platform} {k : Nat} (h : p.step k = .next p') :
    (p[k]? = none ∧ p' = p) ∨ ∃ s t, p[k]? = some s ∧ Machine.step s = .next t ∧ p' = p.set k t := by
  unfold Platform.step at h
  split at h
  · next hk =>
    cases h
    exact .inl ⟨hk, rfl⟩
  · next s hk =>
    split at h
    · next t hs =>
      cases h
      exact .inr ⟨s, t, hk, hs, rfl⟩
    · cases h
    · cases h

/-- Settles O54. -/
theorem instancesAreIndependent : Obligations.InstancesAreIndependent := by
  unfold Obligations.InstancesAreIndependent
  intro p p' k h
  obtain ⟨hk, rfl⟩ | ⟨s, t, hk, hs, rfl⟩ := Platform.step_next h
  · exact ⟨rfl, fun _ _ => rfl, fun s hs => by rw [hk] at hs; cases hs⟩
  · obtain ⟨hlt, -⟩ := List.getElem?_eq_some_iff.1 hk
    refine ⟨List.length_set, fun j hj => List.getElem?_set_ne hj.symm, fun s' hs' => ?_⟩
    obtain rfl : s = s' := Option.some.inj (hk.symm.trans hs')
    exact ⟨t, hs, List.getElem?_set_self hlt⟩

end Sys2Proof.Machine
end

section
/-! SUPPORT. Runs over Host accesses: results stay visible until the next completion (spec/20_memory.md R50), and an operand
write commutes with the completion (R53). -/

namespace Sys2Proof.Machine

open Sys2Proof.Claims

/-- A run that answers a next state took a first step and went on from there. -/
theorem run_succ_next {n : Nat} {s t : State} (h : Host.Core.run Sys2Proof.core (n + 1) s = .next t) :
    ∃ u, step s = .next u ∧ Host.Core.run Sys2Proof.core n u = .next t := by
  cases hs : step s with
  | next u => exact ⟨u, rfl, by rwa [run_next hs] at h⟩
  | fault f =>
    rw [run_fault hs] at h
    cases h
  | refused r =>
    rw [run_refused hs] at h
    cases h

/-- A step that is neither the Engine's nor a reset leaves every result register (10_state.md R18). -/
theorem step_keeps_result {s t : State} {r : DataReg} (hr : r ∈ results) (he : s.nextTurn ≠ .engine)
    (hreset : s.nextTurn ≠ .reset) (h : step s = .next t) : t.x r = s.x r := by
  obtain ⟨-, hstep⟩ := resultRegistersFollowTheCompletions r hr
  obtain ⟨-, hkeeps, -⟩ := hstep s t h
  obtain ⟨hengine, -⟩ | hx := hkeeps hreset
  · exact absurd hengine he
  · exact hx

/-- So does a run of such steps. -/
theorem run_keeps_results {n : Nat} : ∀ {s t : State}, n ≤ s.turns.length →
    (∀ turn ∈ s.turns.take n, turn ≠ .engine ∧ turn ≠ .reset) → Host.Core.run Sys2Proof.core n s = .next t →
    t.width = s.width ∧ ∀ r ∈ results, t.x r = s.x r := by
  induction n with
  | zero =>
    rintro s t - - h
    cases h
    exact ⟨rfl, fun _ _ => rfl⟩
  | succ n ih =>
    intro s t hlen haccess h
    obtain ⟨u, hstep, hrun⟩ := run_succ_next h
    obtain ⟨hwidth, hturns⟩ := step_keeps hstep
    obtain ⟨turn, ts, hts⟩ := List.exists_cons_of_length_pos (Nat.zero_lt_of_lt hlen)
    rw [hts, List.tail_cons] at hturns
    rw [hts, List.take_succ_cons, List.forall_mem_cons] at haccess
    rw [hts, List.length_cons] at hlen
    obtain ⟨⟨hengine, hreset⟩, hrest⟩ := haccess
    have hnext : s.nextTurn = turn := by rw [State.nextTurn, hts, List.headD_cons]
    obtain ⟨hw, hx⟩ := ih (hturns ▸ Nat.le_of_succ_le_succ hlen) (hturns ▸ hrest) hrun
    exact ⟨hw.trans hwidth,
      fun r hr => (hx r hr).trans (step_keeps_result hr (hnext ▸ hengine) (hnext ▸ hreset) hstep)⟩

/-- Settles O49. -/
theorem resultsStayVisibleUntilTheNextCompletion : Obligations.ResultsStayVisibleUntilTheNextCompletion := by
  unfold Obligations.ResultsStayVisibleUntilTheNextCompletion
  intro n s t hlen haccess h
  obtain ⟨hwidth, hx⟩ := run_keeps_results hlen haccess h
  refine ⟨hwidth, fun r hr => ?_⟩
  rw [State.hostRead_slotOf, State.hostRead_slotOf]
  exact ⟨hwidth, hx r hr⟩

/-- A completion writes STATUS and result registers, a data write of the Host operand registers: they commute. -/
theorem State.complete_writeData (s : State) (r : DataReg) (v : Datum) (o : CmdOutcome) :
    (s.writeData r v).complete o = (s.complete o).writeData r v := by
  cases o <;> cases r <;> rfl

/-- `s` with other turns to come. -/
def State.withTurns (s : State) (ts : List Turn) : State := { s with turns := ts }

section WithTurns
variable (s : State) (ts : List Turn)

@[simp] theorem State.withTurns_width : (s.withTurns ts).width = s.width := rfl
@[simp] theorem State.withTurns_status : (s.withTurns ts).status = s.status := rfl
@[simp] theorem State.withTurns_operands : (s.withTurns ts).operands = s.operands := rfl
@[simp] theorem State.withTurns_lop : (s.withTurns ts).lop = s.lop := rfl

theorem State.writeData_withTurns (r : DataReg) (v : Datum) :
    (s.withTurns ts).writeData r v = (s.writeData r v).withTurns ts := by
  cases r <;> rfl

theorem State.complete_withTurns (o : CmdOutcome) : (s.withTurns ts).complete o = (s.complete o).withTurns ts := by
  cases o <;> rfl

theorem step_withTurns_cons (turn : Turn) : step (s.withTurns (turn :: ts)) = takeTurn turn (s.withTurns ts) := rfl

end WithTurns

/-- `t` is busy, with the command and the snapshot of `s` in its latch. -/
structure BusyAlike (s t : State) : Prop where
  busy : t.status.busy = true
  width : t.width = s.width
  lop : t.lop = s.lop
  operands : t.operands = s.operands

/-- The Engine's turn reads the latch and the width alone: it faults, or completes with one outcome, on every busy state that
agrees in them. -/
theorem takeTurn_engine_of_busyAlike (s : State) :
    (∃ f, ∀ t, BusyAlike s t → takeTurn .engine t = .fault f)
    ∨ ∃ o, ∀ t, BusyAlike s t → takeTurn .engine t = .next (t.complete o) := by
  cases hs : decodeOpcode s.lop with
  | none =>
    refine .inl ⟨.latchNotACommand, fun t ht => ?_⟩
    have hlatch : t.fetch = none := by rw [State.fetch, ht.lop, hs]
    simp only [takeTurn, engineTurn, completeLatched, ht.busy, hlatch, if_true]
  | some i =>
    have hexec (t : State) (ht : BusyAlike s t) : takeTurn .engine t = exec i t :=
      takeTurn_engine_of_busy ht.busy (by rw [State.fetch, ht.lop, hs])
    by_cases hfault : i = .egcd ∧ bezoutFits s.width s.operands = false
    · refine .inl ⟨.bezoutOutOfRange, fun t ht => ?_⟩
      rw [hexec t ht, exec_eq, ht.width, ht.operands, if_pos hfault]
    · refine .inr ⟨cmdOutcome i s.width s.operands, fun t ht => ?_⟩
      rw [hexec t ht, exec_eq, ht.width, ht.operands, if_neg hfault]

/-- A data write of the Host and the Engine's turn of a busy unit give the same in either order (R53). -/
theorem run_write_engine_comm (s : State) (r : DataReg) (v : BitVec s.width) (ts : List Turn)
    (hb : s.status.busy = true) :
    Host.Core.run Sys2Proof.core 2 (s.withTurns (.write (slotOf r) ⟨s.width, v⟩ :: .engine :: ts))
      = Host.Core.run Sys2Proof.core 2 (s.withTurns (.engine :: .write (slotOf r) ⟨s.width, v⟩ :: ts)) := by
  have hwrite : step (s.withTurns (.write (slotOf r) ⟨s.width, v⟩ :: .engine :: ts))
      = .next ((s.writeData r ⟨s.width, v⟩).withTurns (.engine :: ts)) := by
    rw [step_withTurns_cons, takeTurn, State.hostWrite_slotOf _ r rfl, State.writeData_withTurns]
  have hbefore (ts' : List Turn) : BusyAlike s (s.withTurns ts') := ⟨hb, rfl, rfl, rfl⟩
  have hafter : BusyAlike s ((s.writeData r ⟨s.width, v⟩).withTurns ts) := ⟨by simpa using hb, by simp, by simp, by simp⟩
  rw [run_next hwrite, run_one, step_withTurns_cons]
  obtain ⟨f, hfault⟩ | ⟨o, hcomplete⟩ := takeTurn_engine_of_busyAlike s
  · rw [hfault _ hafter]
    exact (run_fault ((step_withTurns_cons ..).trans (hfault _ (hbefore _)))).symm
  · rw [hcomplete _ hafter, run_next ((step_withTurns_cons ..).trans (hcomplete _ (hbefore _))), run_one,
      State.complete_withTurns, State.complete_withTurns, State.complete_writeData, step_withTurns_cons, takeTurn,
      State.hostWrite_slotOf _ r (by simp), State.writeData_withTurns]

/-- Settles O47: no completion reads an operand register. -/
theorem operandWritesLeaveTheRunningCommandAlone : Obligations.OperandWritesLeaveTheRunningCommandAlone := by
  unfold Obligations.OperandWritesLeaveTheRunningCommandAlone
  intro s r v ts hr
  exact ⟨run_write_engine_comm s r v ts,
    _, s.hostWrite_slotOf r rfl, s.writeData_x_of_operand hr v, fun op => State.accept_operands _ op⟩

end Sys2Proof.Machine
end

section
/-! SUPPORT. Under the invariant no step faults: the bound on the Bezout coefficients (spec/40_modular_primitives.md R72) and
the latch of a busy unit (10_state.md R33). -/

namespace Sys2Proof.Machine

/-- One step of the recursion of R71 keeps the bound on the second coefficient. -/
theorem natAbs_bezout_step_le {a b g : Nat} {x y : Int} (hx : 2 * g * x.natAbs ≤ a % b) (hy : 2 * g * y.natAbs ≤ b) :
    2 * g * (x - (a / b : Nat) * y).natAbs ≤ a := by
  have habs : (x - (a / b : Nat) * y).natAbs ≤ x.natAbs + a / b * y.natAbs := by
    have hsub := Int.natAbs_sub_le x ((a / b : Nat) * y)
    rwa [Int.natAbs_mul, Int.natAbs_natCast] at hsub
  calc 2 * g * (x - (a / b : Nat) * y).natAbs ≤ 2 * g * (x.natAbs + a / b * y.natAbs) := Nat.mul_le_mul_left _ habs
    _ = 2 * g * x.natAbs + a / b * (2 * g * y.natAbs) := by ring
    _ ≤ a % b + a / b * b := Nat.add_le_add hx (Nat.mul_le_mul_left _ hy)
    _ = a := Nat.mod_add_div' a b

/-- The coefficients of R71 for `b > 0`: with `g` the greatest common divisor, they are 0 and 1 where `b = g`, and otherwise
`|x| ≤ b/(2g)` and `|y| ≤ a/(2g)`, the standard bound of R72. -/
theorem egcdFuel_bound {b : Nat} : ∀ {f a : Nat}, b < f → 0 < b →
    (b = (egcdFuel f a b).1 ∧ (egcdFuel f a b).2.1 = 0 ∧ (egcdFuel f a b).2.2 = 1)
    ∨ (2 * (egcdFuel f a b).1 * (egcdFuel f a b).2.1.natAbs ≤ b
      ∧ 2 * (egcdFuel f a b).1 * (egcdFuel f a b).2.2.natAbs ≤ a) := by
  induction b using Nat.strong_induction_on with
  | _ b ih =>
    intro f a hf hb
    obtain ⟨f, rfl⟩ := Nat.exists_eq_succ_of_ne_zero (Nat.ne_zero_of_lt hf)
    have hlt : a % b < b := Nat.mod_lt _ hb
    have hrf : a % b < f := by omega
    simp only [egcdFuel, hb.ne', if_false]
    obtain hr | hr := Nat.eq_zero_or_pos (a % b)
    · simp [hr, egcdFuel_zero_right]
    · suffices hrec : 2 * (egcdFuel f b (a % b)).1 * (egcdFuel f b (a % b)).2.1.natAbs ≤ a % b
          ∧ 2 * (egcdFuel f b (a % b)).1 * (egcdFuel f b (a % b)).2.2.natAbs ≤ b from
        .inr ⟨hrec.2, natAbs_bezout_step_le hrec.1 hrec.2⟩
      obtain ⟨hg, hx, hy⟩ | hrec := ih _ hlt (a := b) hrf hr
      · have hdvd : a % b ∣ b := by
          rw [hg, (egcdFuel_bezout hrf).1]
          exact Nat.gcd_dvd_left b (a % b)
        have htwo : 2 * (a % b) ≤ b := by
          by_contra h
          exact hlt.ne' (Nat.eq_of_dvd_of_lt_two_mul hb.ne' hdvd (Nat.not_le.1 h))
        rw [hx, hy, ← hg]
        simpa using htwo
      · exact hrec

/-- The bound of R72: at a width of two bits or more, the assertion on EGCD's coefficients holds of every pair of operands. -/
theorem bezoutFits_of_lt {W : Nat} {o : Operands} (hW : 2 ≤ W) (ha : o.a < 2 ^ W) (hb : o.b < 2 ^ W) :
    bezoutFits W o = true := by
  rw [bezoutFits_iff]
  have hhalf : 2 * 2 ^ (W - 1) = 2 ^ W := mul_pow_sub_one (by omega) 2
  have hone : 2 ^ 1 ≤ 2 ^ (W - 1) := Nat.pow_le_pow_right (by omega) (by omega)
  obtain hb0 | hbpos := Nat.eq_zero_or_pos o.b
  · rw [hb0, egcd, egcdFuel_zero_right, Int.natAbs_one, Int.natAbs_zero]
    constructor <;> omega
  · have hlt : o.b < o.b + 1 := Nat.lt_succ_self _
    obtain ⟨-, hx, hy⟩ | ⟨hx, hy⟩ := egcdFuel_bound (a := o.a) hlt hbpos
    · rw [egcd, hx, hy]
      constructor <;> omega
    · have hg : 1 ≤ (egcdFuel (o.b + 1) o.a o.b).1 := by
        rw [(egcdFuel_bezout hlt).1]
        exact Nat.gcd_pos_of_pos_right _ hbpos
      have hx' := (Nat.mul_le_mul_right _ (Nat.mul_le_mul_left 2 hg)).trans hx
      have hy' := (Nat.mul_le_mul_right _ (Nat.mul_le_mul_left 2 hg)).trans hy
      rw [egcd]
      constructor <;> omega

end Sys2Proof.Machine

namespace Sys2Proof.Safety

open Sys2Proof.Machine

/-- A turn to come that does not fit is a Host write of the wrong width, and is refused (20_memory.md R43). -/
theorem takeTurn_of_not_fits {turn : Turn} {s : State} (h : turnFits s.width turn = false) :
    takeTurn turn s = .refused .wrongWidth := by
  cases turn with
  | write i v => exact s.hostWrite_of_wrongWidth (by simpa [turnFits, accessWellFormed] using h)
  | read i => cases h
  | reset => cases h
  | engine => cases h

/-- The latch of a legal busy unit holds a command, which completes: no operands of a width of R6 break the bound of R72. -/
theorem engine_answers {s : State} (h : stateLegal s = true) : ∃ t, takeTurn .engine s = .next t := by
  obtain ⟨hw, hb, -, -⟩ := (stateLegal_iff s).1 h
  cases hbusy : s.status.busy with
  | false => exact ⟨s, (Effect.stutter hbusy).takeTurn⟩
  | true =>
    obtain ⟨⟨i, hlatch⟩, -⟩ := (busyLegal_of_busy hbusy).1 hb
    have hW := (widthWellFormed_iff _).1 hw
    have hfits : bezoutFits s.width s.operands = true := bezoutFits_of_lt (by omega) (uval_lt s.sa) (uval_lt s.sb)
    rw [takeTurn_engine_of_busy hbusy hlatch, exec_eq, if_neg (by simp [hfits])]
    exact ⟨_, rfl⟩

/-- Every turn that fits is answered by a legal unit. -/
theorem takeTurn_answers {turn : Turn} {s : State} (h : stateLegal s = true) (hfits : turnFits s.width turn = true) :
    ∃ t, takeTurn turn s = .next t := by
  cases turn with
  | read i => exact ⟨_, rfl⟩
  | write i v => exact ⟨_, s.hostWrite_of_width (by simpa [turnFits, accessWellFormed] using hfits)⟩
  | reset => exact ⟨_, rfl⟩
  | engine => exact engine_answers h

/-- Settles O52: a turn that fits is answered, and any other is a write of the wrong width. -/
theorem noStepFaultsUnderTheInvariant : Obligations.NoStepFaultsUnderTheInvariant := by
  unfold Obligations.NoStepFaultsUnderTheInvariant
  intro s h
  cases hfits : turnFits s.width s.nextTurn with
  | true =>
    obtain ⟨t, ht⟩ : ∃ t, step s = .next t := takeTurn_answers (s := s.popTurn) h hfits
    simp [ht]
  | false =>
    have hrefused : step s = .refused .wrongWidth := takeTurn_of_not_fits (s := s.popTurn) hfits
    simp [hrefused, eq_comm]

end Sys2Proof.Safety
end

section
/-! SUPPORT. The command word read and written (spec/30_encoding.md R58 to R61), the frame of a success (R65) and the
digits of a transaction (R69). -/

namespace Sys2Proof

/-- The decoder reads every command's word as that command (R60). -/
@[simp] theorem decode_encode (i : Instr) : decode (encode i) = .ok i := by cases i <;> rfl

/-- A word whose reserved bits are 0 is its opcode, zero-extended (R58). -/
theorem eq_setWidth_opcodeOf {w : BitVec 32} (h : rsvdOf w = 0) : w = (opcodeOf w).setWidth 32 := by
  have hhigh : w.toNat / 16 = 0 := (Machine.rsvdOf_eq_zero_iff w).1 h
  have hlow : (opcodeOf w).toNat = w.toNat % 16 := Machine.opcodeOf_toNat w
  apply BitVec.eq_of_toNat_eq
  rw [BitVec.toNat_setWidth, hlow]
  omega

/-- The only word of a command is its encoding: RSVD is 0, and the opcode map is injective (R60). -/
theorem eq_encode_of_decode {w : BitVec 32} {i : Instr} (h : decode w = .ok i) : w = encode i := by
  obtain ⟨hrsvd, hop⟩ := decode_ok h
  rw [encode, ← decodeOpcode_eq_some hop]
  exact eq_setWidth_opcodeOf hrsvd

theorem decode_eq_ok_iff (w : BitVec 32) (i : Instr) : decode w = .ok i ↔ w = encode i :=
  ⟨eq_encode_of_decode, by rintro rfl; exact decode_encode i⟩

/-- Settles O3: `decode` and `encode` are inverse on the words of the commands. -/
theorem decodeInvertsEncode : Obligations.DecodeInvertsEncode :=
  ⟨decode_eq_ok_iff, rfl, rfl, rfl, rfl, rfl, rfl, rfl⟩

/-- A word with RSVD 0 and an opcode outside the map of R60 is rejected for its opcode (R61). -/
theorem decode_of_reservedOpcode {w : BitVec 32} (hrsvd : rsvdOf w = 0) (hop : decodeOpcode (opcodeOf w) = none) :
    decode w = .error .reservedOpcode := by
  simp [decode, hrsvd, hop]

/-- Settles O1: the seven words are the encodings, and the nine others carry a reserved opcode. -/
theorem opcodeTableDecodes : Obligations.OpcodeTableDecodes := by
  unfold Obligations.OpcodeTableDecodes
  refine ⟨decode_encode .modpow, decode_encode .sqr, decode_encode .egcd, decode_encode .modinv, decode_encode .crt,
    decode_encode .roots, decode_encode .decrypt, fun op hop => ?_⟩
  have hfields : rsvdOf (BitVec.ofNat 32 op) = 0 ∧ decodeOpcode (opcodeOf (BitVec.ofNat 32 op)) = none := by
    revert op
    decide
  exact decode_of_reservedOpcode hfields.1 hfields.2

end Sys2Proof

namespace Sys2Proof.Machine

open Sys2Proof.Claims

/-- The decoder accepts exactly the words of R59. -/
theorem decode_ok_iff_legal (w : BitVec 32) : (∃ i, decode w = .ok i) ↔ Legal w :=
  (decode_ok_iff_wordWellFormed w).trans (legal_iff_wordWellFormed w).symm

/-- Settles O2: legal words by the decoder, other words and busy units by what a CMD write does. -/
theorem legalWordsAreTheCommands : Obligations.LegalWordsAreTheCommands := by
  unfold Obligations.LegalWordsAreTheCommands
  intro w
  refine ⟨decode_ok_iff_legal w, fun s hidle hw => ?_, fun s hbusy => commandWriteWhileBusySetsOvrOnly s w hbusy⟩
  obtain ⟨t, ht, hreported, -⟩ := illegalWordReportsAtOnce s w hidle hw
  exact ⟨t, ht, hreported⟩

/-- A completion writes STATUS and at most the registers of its command's row (R65). -/
theorem frameExcept_complete (s : State) (i : Instr) :
    FrameExcept s (s.complete (cmdOutcome i s.width s.operands)) (writes i) :=
  ⟨s.complete_width _, fun _ hr => complete_x_of_not_writes hr, s.complete_lop _, s.complete_operands _,
    s.complete_turns _, s.complete_replies _⟩

/-- Settles O43: a completion without error is a commit of results that fit the command's row. -/
theorem successWritesItsRegistersOnly : Obligations.SuccessWritesItsRegistersOnly := by
  unfold Obligations.SuccessWritesItsRegistersOnly
  intro i s t h herr
  refine ⟨exec_next h ▸ frameExcept_complete s i, ?_⟩
  obtain ⟨r, hr, rfl⟩ | ⟨c, -, rfl⟩ := exec_cases h
  · refine ⟨rfl, fun hi => ?_⟩
    rw [State.commit_status, Status.succeed, ← Bool.not_eq_true]
    exact fun hmulti => hi ((cmdOutcome_ok_resultsFit hr).2 hmulti)
  · cases herr

/-- Reading the low `n` hexadecimal digits of `v` after `acc`, most significant first. -/
theorem foldl_hexDigits (v n acc : Nat) :
    ((List.range n).reverse.map fun k => v / 16 ^ k % 16).foldl (fun m x => 16 * m + x) acc
      = acc * 16 ^ n + v % 16 ^ n := by
  induction n generalizing acc with
  | zero => simp [Nat.mod_one]
  | succ n ih =>
    rw [List.range_succ, List.reverse_append, List.reverse_singleton, List.singleton_append, List.map_cons,
      List.foldl_cons, ih, Nat.mod_pow_succ]
    ring

/-- `ceil(width/4)` digits are enough for the value. -/
theorem uval_bits_lt_pow (d : Datum) : uval d.bits < 16 ^ ((d.width + 3) / 4) :=
  calc uval d.bits < 2 ^ d.width := uval_lt d.bits
    _ ≤ 2 ^ (4 * ((d.width + 3) / 4)) := Nat.pow_le_pow_right (by decide) (by omega)
    _ = 16 ^ ((d.width + 3) / 4) := pow_mul 2 4 _

/-- Settles O55: the digits read back as the value modulo `16 ^ ceil(width/4)`, which is the value. -/
theorem hexDigitsReadBack : Obligations.HexDigitsReadBack := by
  unfold Obligations.HexDigitsReadBack
  intro d
  refine ⟨by simp [hexDigits], fun x hx => ?_, ?_⟩
  · obtain ⟨k, -, rfl⟩ := List.mem_map.1 hx
    exact Nat.mod_lt _ (by decide)
  · rw [hexDigits, foldl_hexDigits, Nat.mod_eq_of_lt (uval_bits_lt_pow d), Nat.zero_mul, Nat.zero_add]

end Sys2Proof.Machine
end

section
/-! SUPPORT. The triple of `egcd` (spec/40_modular_primitives.md R71) and the bound on its coefficients (R72). -/

namespace Sys2Proof.Machine

open Sys2Proof.Claims

@[simp] theorem egcd_zero_right (a : Nat) : egcd a 0 = (a, 1, 0) := egcdFuel_zero_right 1 a

/-- The recursion of R71: the model's fuel is always enough. -/
theorem egcd_of_ne_zero (a : Nat) {b : Nat} (hb : b ≠ 0) : egcd a b =
    ((egcd b (a % b)).1, (egcd b (a % b)).2.2, (egcd b (a % b)).2.1 - (a / b : Nat) * (egcd b (a % b)).2.2) := by
  have hlt : a % b < b := Nat.mod_lt _ (Nat.pos_of_ne_zero hb)
  have hfuel : egcdFuel b b (a % b) = egcd b (a % b) := egcdFuel_enough hlt (Nat.lt_succ_self _)
  rw [← hfuel, egcd, egcdFuel, if_neg hb]

theorem egcd_fst (a b : Nat) : (egcd a b).1 = Nat.gcd a b := (egcdFuel_bezout (Nat.lt_succ_self b)).1

theorem egcd_bezout (a b : Nat) : (a : Int) * (egcd a b).2.1 + b * (egcd a b).2.2 = (Nat.gcd a b : Int) :=
  (egcdFuel_bezout (Nat.lt_succ_self b)).2

/-- Settles O29, from the recursion and the Bezout identity. -/
theorem egcdFollowsTheRecursion : Obligations.EgcdFollowsTheRecursion := by
  unfold Obligations.EgcdFollowsTheRecursion
  intro a b
  exact ⟨egcd_zero_right a, egcd_of_ne_zero a, by rw [egcd_bezout, egcd_fst], egcd_fst a b⟩

/-- A second argument that divides the first is the greatest common divisor, with coefficients 0 and 1 (R77). -/
theorem egcd_of_dvd {a b : Nat} (hb : 0 < b) (h : b ∣ a) : egcd a b = (b, 0, 1) := by
  rw [egcd_of_ne_zero a hb.ne', Nat.mod_eq_zero_of_dvd h]
  simp

/-- Operands in ascending order are swapped (R77). -/
theorem egcd_of_lt {a b : Nat} (h : a < b) : egcd a b = ((egcd b a).1, (egcd b a).2.2, (egcd b a).2.1) := by
  rw [egcd_of_ne_zero a (Nat.ne_zero_of_lt h), Nat.mod_eq_of_lt h, Nat.div_eq_of_lt h]
  simp

theorem egcd_bound (a : Nat) {b : Nat} (hb : 0 < b) :
    (b = (egcd a b).1 ∧ (egcd a b).2.1 = 0 ∧ (egcd a b).2.2 = 1)
    ∨ (2 * (egcd a b).1 * (egcd a b).2.1.natAbs ≤ b ∧ 2 * (egcd a b).1 * (egcd a b).2.2.natAbs ≤ a) :=
  egcdFuel_bound (Nat.lt_succ_self b) hb

/-- The standard bound on the coefficients (R72). -/
theorem egcd_standardBound (a b : Nat) : (egcd a b).2.1.natAbs ≤ max 1 (b / (2 * (egcd a b).1))
    ∧ (egcd a b).2.2.natAbs ≤ max 1 (a / (2 * (egcd a b).1)) := by
  obtain rfl | hb := Nat.eq_zero_or_pos b
  · simp
  · have hg : 0 < 2 * (egcd a b).1 := by
      rw [egcd_fst]
      exact Nat.mul_pos two_pos (Nat.gcd_pos_of_pos_right a hb)
    obtain ⟨-, hx, hy⟩ | ⟨hx, hy⟩ := egcd_bound a hb
    · simp [hx, hy]
    · rw [Nat.mul_comm, ← Nat.le_div_iff_mul_le hg] at hx hy
      exact ⟨le_max_of_le_right hx, le_max_of_le_right hy⟩

/-- The greatest common divisor of two numbers of `W` bits has `W` bits. -/
theorem egcd_fst_lt {W a b : Nat} (ha : a < 2 ^ W) (hb : b < 2 ^ W) : (egcd a b).1 < 2 ^ W := by
  obtain rfl | hpos := Nat.eq_zero_or_pos b
  · simpa using ha
  · rw [egcd_fst]
    exact (Nat.gcd_le_right a hpos).trans_lt hb

/-- The bound that R72 gives for operands of `W` bits. -/
theorem egcd_natAbs_le {W a b : Nat} (hW : widthWellFormed W = true) (ha : a < 2 ^ W) (hb : b < 2 ^ W) :
    (egcd a b).2.1.natAbs ≤ 2 ^ (W - 1) - 1 ∧ (egcd a b).2.2.natAbs ≤ 2 ^ (W - 1) - 1 := by
  have hwidth := (widthWellFormed_iff W).1 hW
  exact (bezoutFits_iff W ⟨a, b, 0, 0⟩).1 (bezoutFits_of_lt (by omega) ha hb)

/-- A number within the bound of R72 is read back from its two's complement. -/
theorem sval_tc_of_natAbs_le {W : Nat} {x : Int} (hW : widthWellFormed W = true) (hx : x.natAbs ≤ 2 ^ (W - 1) - 1) :
    sval (tc W x) = x := by
  have hwidth := (widthWellFormed_iff W).1 hW
  have hpow : 0 < 2 ^ (W - 1) := Nat.two_pow_pos _
  have habs : (x.natAbs : Int) < 2 ^ (W - 1) := by exact_mod_cast (by omega : x.natAbs < 2 ^ (W - 1))
  exact sval_tc (by omega) (by omega) (by omega)

/-- The latch's operands are of the unit's width, so at a width of R6 the assertion of R72 holds. -/
theorem bezoutFits_operands {s : State} (hW : widthWellFormed s.width = true) :
    bezoutFits s.width s.operands = true :=
  (bezoutFits_iff _ _).2 (egcd_natAbs_le hW (uval_lt s.sa) (uval_lt s.sb))

end Sys2Proof.Machine
end

section
/-! SUPPORT. The inverse (spec/40_modular_primitives.md R73) and the Chinese-remainder combination (R74, R75). -/

namespace Sys2Proof.Machine

open Sys2Proof.Claims

theorem inv_of_not_coprime {a m : Nat} (hm : 0 < m) (hg : Nat.gcd a m ≠ 1) : inv a m = .error .noInverse := by
  obtain ⟨h, -⟩ | ⟨r, -, -, hone⟩ := inv_cases a m hm
  · exact h
  · exact absurd hone hg

theorem inv_lt {a m r : Nat} (hm : 0 < m) (h : inv a m = .ok r) : r < m := by
  obtain ⟨he, -⟩ | ⟨r', hr', hlt, -⟩ := inv_cases a m hm
  · rw [he] at h
    cases h
  · rw [h] at hr'
    cases hr'
    exact hlt

/-- An inverse is congruent to the first coefficient of every pair (R73). -/
theorem modEq_of_bezout {a m r : Nat} {x y : Int} (hr : a * r ≡ 1 [MOD m]) (hxy : a * x + m * y = 1) :
    r ≡ x [ZMOD m] := by
  have hr' : (a : Int) * r ≡ 1 [ZMOD m] := by exact_mod_cast Int.natCast_modEq_iff.2 hr
  calc (r : Int) = x * (a * r) + m * (y * r) := by linear_combination (-(r : Int)) * hxy
    _ ≡ x * 1 + 0 [ZMOD m] := (hr'.mul_left x).add (Int.modEq_zero_iff_dvd.2 (dvd_mul_right _ _))
    _ = x := by ring

/-- Settles O32: the clause on `egcd`'s coefficient is the one on every pair. -/
theorem inverseIsUniqueAndIndependentOfThePair : Obligations.InverseIsUniqueAndIndependentOfThePair := by
  unfold Obligations.InverseIsUniqueAndIndependentOfThePair
  intro a m hm
  refine ⟨inv_of_not_coprime hm, fun hg => ?_⟩
  obtain ⟨r, hinv, hr⟩ := inv_of_coprime hm hg
  have hlt : r < m := inv_lt hm hinv
  have hpair : ∀ x y : Int, a * x + m * y = 1 → (r : Int) = x % m := fun x y hxy => by
    rw [← (modEq_of_bezout hr hxy).eq, Int.emod_eq_of_lt (Int.natCast_nonneg r) (Int.ofNat_lt.2 hlt)]
  refine ⟨r, hinv, hlt, hr, hpair _ _ (by rw [egcd_bezout, hg, Nat.cast_one]), fun x hx hax => ?_, hpair, by omega⟩
  have hxr : x ≡ r [MOD m] := .cancel_left_of_coprime (Nat.gcd_comm a m ▸ hg) (Nat.ModEq.trans hax hr.symm)
  exact hxr.eq_of_lt_of_lt hx hlt

theorem crt_of_not_coprime (a1 a2 : Nat) {p q : Nat} (hp : 0 < p) (hg : Nat.gcd p q ≠ 1) :
    crt a1 a2 p q = .error .noInverse := by
  rw [crt, inv_of_not_coprime hp (Nat.gcd_comm p q ▸ hg)]

/-- With coprime moduli `crt` answers the source's formula of the two inverses, and it combines the residues. -/
theorem crt_formula (a1 a2 : Nat) {p q : Nat} (hp : 0 < p) (hq : 0 < q) (hg : Nat.gcd p q = 1) :
    ∃ x u v, crt a1 a2 p q = .ok x ∧ inv q p = .ok u ∧ inv p q = .ok v
      ∧ x = (a1 * q * u + a2 * p * v) % (p * q) ∧ Combines x a1 a2 p q := by
  obtain ⟨u, hu, -⟩ := inv_of_coprime hp (Nat.gcd_comm p q ▸ hg)
  obtain ⟨v, hv, -⟩ := inv_of_coprime hq hg
  obtain ⟨x, hx, hcomb⟩ := crt_of_coprime a1 a2 hp hq hg
  refine ⟨x, u, v, hx, hu, hv, ?_, hcomb⟩
  rw [crt, hu, hv] at hx
  exact (Except.ok.inj hx).symm

/-- Settles O34: a multiple of `p` in `a1`, or of `q` in `a2`, adds a multiple of `p * q` to the formula. -/
theorem crtIsTheUniqueCombination : Obligations.CrtIsTheUniqueCombination := by
  unfold Obligations.CrtIsTheUniqueCombination
  intro a1 a2 p q hp hq
  refine ⟨crt_of_not_coprime a1 a2 hp, fun hg => ?_⟩
  obtain ⟨x, u, v, hx, hu, hv, hformula, hcomb⟩ := crt_formula a1 a2 hp hq hg
  refine ⟨x, u, v, hx, hu, hv, hformula, hcomb, fun y hy => combines_unique hg hy hcomb, fun k => ?_⟩
  have hcast : ((a1 : Int) * q * u + a2 * p * v) % (p * q) = x := by rw [hformula]; push_cast; rfl
  constructor
  · rw [← hcast, ← Int.add_mul_emod_self_left (a1 * q * u + a2 * p * v) (p * q) (k * u)]
    congr 1
    ring
  · rw [← hcast, ← Int.add_mul_emod_self_left (a1 * q * u + a2 * p * v) (p * q) (k * v)]
    congr 1
    ring

end Sys2Proof.Machine
end

section
/-! SUPPORT. The completions of MODPOW, EGCD, MODINV and CRT (spec/40_modular_primitives.md R76 to R79), from what each
command's function answers. -/

namespace Sys2Proof.Machine

open Sys2Proof.Claims

section Completion
variable {s : State} {i : Instr}

/-- A command whose function answers an error ends with that error's code and writes STATUS alone (10_state.md R36). -/
theorem fails_of_cmdOutcome {c : ErrCode} (h : cmdOutcome i s.width s.operands = .error c) : Fails i s c.code := by
  refine ⟨s.raise c, ?_, frameExcept_of_status s _ [], rfl⟩
  rw [exec_eq, if_neg, h, State.complete_error]
  rintro ⟨rfl, -⟩
  cases h

/-- A command whose function answers results commits them, and writes at most the registers of its row (R18, R36). -/
theorem succeeds_of_cmdOutcome {r : Results} {P : State → Prop}
    (hfits : i = .egcd → bezoutFits s.width s.operands = true) (h : cmdOutcome i s.width s.operands = .ok r)
    (hP : P (s.commit r)) : Succeeds i s (writes i) r.multi P := by
  refine ⟨s.commit r, ?_, ?_, rfl, hP⟩
  · rw [exec_eq, if_neg, h, State.complete_ok]
    rintro ⟨hi, hfalse⟩
    exact Bool.false_ne_true (hfalse.symm.trans (hfits hi))
  · have hframe := frameExcept_complete s i
    rwa [h] at hframe

/-- A command whose one result fits RES0 leaves it there. -/
theorem succeeds_of_res0 {v : Nat} {P : State → Prop} (hwrites : writes i = [.res0])
    (h : cmdOutcome i s.width s.operands = .ok { res0 := some (.unsigned v) }) (hv : v < 2 ^ s.width)
    (hP : ∀ t : State, t.x .res0 = v → P t) : Succeeds i s [.res0] false P := by
  rw [← hwrites]
  refine succeeds_of_cmdOutcome ?_ h (hP _ (uval_commitReg (old := s.res0) hv))
  rintro rfl
  cases hwrites

end Completion

/-- Settles O26: a power below a modulus of `W` bits fits RES0. -/
theorem modpowGivesThePower : Obligations.ModpowGivesThePower := by
  unfold Obligations.ModpowGivesThePower
  refine ⟨decode_encode .modpow, fun s => ⟨fun hm => ?_, fun hm => ?_⟩⟩
  · exact fails_of_cmdOutcome (c := .modulusZero) (cmdModpow_zero hm)
  · have hlt : modpow (uval s.sa) (uval s.sb) (uval s.sm) < uval s.sm := Nat.mod_lt _ (Nat.pos_of_ne_zero hm)
    exact succeeds_of_res0 rfl (cmdModpow_ok hm) (hlt.trans (uval_lt s.sm)) fun _ ht => ht

theorem cmdEgcd_eq (o : Operands) : cmdEgcd o = .ok
    { res0 := some (.unsigned (egcd o.a o.b).1)
      res1 := some (.signed (egcd o.a o.b).2.1)
      res2 := some (.signed (egcd o.a o.b).2.2) } := rfl

/-- Settles O28: at a width of R6 both coefficients are read back whole. -/
theorem egcdGivesTheTriple : Obligations.EgcdGivesTheTriple := by
  unfold Obligations.EgcdGivesTheTriple
  refine ⟨decode_encode .egcd, fun s hW => ?_, egcd_zero_right 0, egcd_zero_right,
    fun b hb => egcd_of_dvd hb (dvd_zero b), fun a ha => egcd_of_dvd ha dvd_rfl, fun a b => egcd_of_lt⟩
  obtain ⟨hx, hy⟩ := egcd_natAbs_le hW (uval_lt s.sa) (uval_lt s.sb)
  have hg := egcd_fst_lt (uval_lt s.sa) (uval_lt s.sb)
  refine succeeds_of_cmdOutcome (i := .egcd) (fun _ => bezoutFits_operands hW) (cmdEgcd_eq _) ?_
  exact Prod.ext (uval_commitReg (old := s.res0) hg)
    (Prod.ext (sval_tc_of_natAbs_le hW hx) (sval_tc_of_natAbs_le hW hy))

/-- EGCD completes exactly when the assertion of R72 holds. -/
theorem exec_egcd (s : State) : exec .egcd s =
    if bezoutFits s.width s.operands then .next (s.complete (cmdEgcd s.operands))
    else .fault .bezoutOutOfRange := rfl

/-- Settles O30, from the bound and the assertion that EGCD makes of it. -/
theorem coefficientsFitTheRegister : Obligations.CoefficientsFitTheRegister := by
  unfold Obligations.CoefficientsFitTheRegister
  refine ⟨egcd_standardBound, fun W a b hW ha hb => ?_, fun s hW => ?_, fun s hbound => ?_⟩
  · obtain ⟨hx, hy⟩ := egcd_natAbs_le hW ha hb
    exact ⟨hx, hy, sval_tc_of_natAbs_le hW hx, sval_tc_of_natAbs_le hW hy⟩
  · exact ⟨_, by rw [exec_egcd, if_pos (bezoutFits_operands hW)]⟩
  · rw [exec_egcd, if_neg ((bezoutFits_iff _ _).not.2 hbound)]

/-- Settles O31, by what `inv` answers. -/
theorem modinvGivesTheInverse : Obligations.ModinvGivesTheInverse := by
  unfold Obligations.ModinvGivesTheInverse
  refine ⟨decode_encode .modinv, fun s => ⟨fun hm => ?_, fun hm hg => ?_, fun hm hg => ?_⟩⟩
  · exact fails_of_cmdOutcome (c := .modulusZero) (cmdModinv_zero hm)
  · have hinv := inv_of_not_coprime (Nat.pos_of_ne_zero hm) hg
    exact fails_of_cmdOutcome (c := .noInverse) (cmdModinv_error hm hinv)
  · have hpos : 0 < uval s.sm := Nat.pos_of_ne_zero hm
    obtain ⟨r, hinv, hr⟩ := inv_of_coprime hpos hg
    have hlt : r < uval s.sm := inv_lt hpos hinv
    refine succeeds_of_res0 rfl (cmdModinv_ok hm hinv) (hlt.trans (uval_lt s.sm)) fun t ht => ?_
    rw [ht]
    exact ⟨hlt, hr⟩

/-- Settles O33, by the checks of `cmdCrt` in their order and what `crt` answers. -/
theorem crtGivesTheCombination : Obligations.CrtGivesTheCombination := by
  unfold Obligations.CrtGivesTheCombination
  refine ⟨decode_encode .crt, fun s => ?_⟩
  intro p q
  refine ⟨fun h0 => ?_, fun hp hq hrange => ?_, fun hp hq hrange hg => ?_, fun hp hq hrange hg => ?_⟩
  · exact fails_of_cmdOutcome (c := .modulusZero) (cmdCrt_zero h0)
  · exact fails_of_cmdOutcome (c := .operandRange) (cmdCrt_range (not_or.2 ⟨hp, hq⟩) hrange)
  · exact fails_of_cmdOutcome (c := .noInverse) (cmdCrt_coprime (not_or.2 ⟨hp, hq⟩) (Nat.not_le.2 hrange) hg)
  · obtain ⟨x, u, v, hx, hu, hv, hformula, hcomb⟩ :=
      crt_formula (uval s.sa) (uval s.sb) (Nat.pos_of_ne_zero hp) (Nat.pos_of_ne_zero hq) hg
    have hok := cmdCrt_ok (o := s.operands) (not_or.2 ⟨hp, hq⟩) (Nat.not_le.2 hrange) hg hx
    refine succeeds_of_res0 rfl hok (hcomb.1.trans hrange) fun t ht => ?_
    rw [ht]
    exact ⟨hcomb, u, v, hu, hv, hformula⟩

end Sys2Proof.Machine
end

section
/-! SUPPORT. The completion of SQR (spec/41_squarer.md R80). -/

namespace Sys2Proof.Machine

open Sys2Proof.Claims

/-- Squaring is MODPOW with exponent 2, the zero modulus included (R80). -/
theorem cmdSqr_eq_cmdModpow {o : Operands} (hb : o.b = 2) : cmdSqr o = cmdModpow o := by
  by_cases hm : o.m = 0
  · rw [cmdSqr_zero hm, cmdModpow_zero hm]
  · rw [cmdSqr_ok hm, cmdModpow_ok hm, modpow, hb, sq]

/-- Settles O27: a square below a modulus of `W` bits fits RES0, and the two commands' functions agree at exponent 2. -/
theorem sqrGivesTheSquare : Obligations.SqrGivesTheSquare := by
  unfold Obligations.SqrGivesTheSquare
  refine ⟨decode_encode .sqr, fun s => ⟨fun hm => ?_, fun hm => ?_, fun hb => ?_⟩⟩
  · exact fails_of_cmdOutcome (c := .modulusZero) (cmdSqr_zero hm)
  · have hlt : uval s.sa * uval s.sa % uval s.sm < uval s.sm := Nat.mod_lt _ (Nat.pos_of_ne_zero hm)
    exact succeeds_of_res0 rfl (cmdSqr_ok hm) (hlt.trans (uval_lt s.sm)) fun _ ht => ht
  · have houtcome : cmdOutcome .sqr s.width s.operands = cmdOutcome .modpow s.width s.operands := cmdSqr_eq_cmdModpow hb
    simp [exec_eq, houtcome]

end Sys2Proof.Machine
end

section
/-! SUPPORT. The checks of ROOTS and DECRYPT in their order (spec/42_root_finder.md R82), and what the root finder
answers when they pass (R83, R86). -/

namespace Sys2Proof.Machine

open Sys2Proof.Claims

theorem checkInputs_zero (W c : Nat) {p q : Nat} (h : p = 0 ∨ q = 0) : checkInputs W c p q = .error .modulusZero :=
  if_pos h

theorem checkInputs_range (c : Nat) {W p q : Nat} (h : ¬(p = 0 ∨ q = 0)) (hrange : 2 ^ W ≤ p * q) :
    checkInputs W c p q = .error .operandRange := by
  rw [checkInputs, if_neg h, if_pos hrange]

theorem checkInputs_ciphertext {W c p q : Nat} (h : ¬(p = 0 ∨ q = 0)) (hrange : p * q < 2 ^ W) (hc : p * q ≤ c) :
    checkInputs W c p q = .error .invalidCiphertext := by
  rw [checkInputs, if_neg h, if_neg (Nat.not_le.2 hrange), if_pos hc]

theorem checkInputs_coprime {W c p q : Nat} (h : ¬(p = 0 ∨ q = 0)) (hrange : p * q < 2 ^ W) (hc : c < p * q)
    (hg : Nat.gcd p q ≠ 1) : checkInputs W c p q = .error .noInverse := by
  rw [checkInputs, if_neg h, if_neg (Nat.not_le.2 hrange), if_neg (Nat.not_le.2 hc), if_pos hg]

/-- The width enters the checks through the range of the product alone (R92). -/
theorem checkInputs_congr_width (c : Nat) {W V p q : Nat} (h : 2 ^ W ≤ p * q ↔ 2 ^ V ≤ p * q) :
    checkInputs W c p q = checkInputs V c p q := by
  simp only [checkInputs, h]

/-- ROOTS and DECRYPT end with the code of the first check that fails, and write STATUS alone. -/
theorem fails_of_checkInputs {i : Instr} {s : State} {e : ErrCode} (hi : i = .roots ∨ i = .decrypt)
    (h : checkInputs s.width (uval s.sa) (uval s.sm) (uval s.sq) = .error e) : Fails i s e.code :=
  fails_of_cmdOutcome (rootCommand_error (o := s.operands) hi h)

theorem checksInOrder_of_rootCommand {i : Instr} (hi : i = .roots ∨ i = .decrypt) (s : State) : ChecksInOrder i s := by
  unfold ChecksInOrder
  intro c p q
  refine ⟨fun h0 => ?_, fun hp hq hrange => ?_, fun hp hq hrange hc => ?_, fun hp hq hrange hc hg => ?_⟩
  · exact fails_of_checkInputs (e := .modulusZero) hi (checkInputs_zero _ _ h0)
  · exact fails_of_checkInputs (e := .operandRange) hi (checkInputs_range _ (not_or.2 ⟨hp, hq⟩) hrange)
  · exact fails_of_checkInputs (e := .invalidCiphertext) hi (checkInputs_ciphertext (not_or.2 ⟨hp, hq⟩) hrange hc)
  · exact fails_of_checkInputs (e := .noInverse) hi (checkInputs_coprime (not_or.2 ⟨hp, hq⟩) hrange hc hg)

/-- Settles O35: the two commands share their checks. -/
theorem rootCommandsCheckTheirInputsInOrder : Obligations.RootCommandsCheckTheirInputsInOrder := by
  unfold Obligations.RootCommandsCheckTheirInputsInOrder
  intro i hi
  exact checksInOrder_of_rootCommand (by simpa using hi)

/-- What `combineRoots` answers: the half-roots it was given and the four values of `crt`. -/
theorem combineRoots_ok {r r' p q : Nat} {R : RootSet} (h : combineRoots r r' p q = .ok R) :
    R.rp = r ∧ R.rq = r' ∧ crt r r' p q = .ok R.cand0 ∧ crt r (negRoot r' q) p q = .ok R.cand1
      ∧ crt (negRoot r p) r' p q = .ok R.cand2 ∧ crt (negRoot r p) (negRoot r' q) p q = .ok R.cand3 := by
  unfold combineRoots at h
  split at h
  · cases h
  · next h0 =>
    split at h
    · cases h
    · next h1 =>
      split at h
      · cases h
      · next h2 =>
        split at h
        · cases h
        · next h3 =>
          cases h
          exact ⟨rfl, rfl, h0, h1, h2, h3⟩

section LatchedRoots
variable {s : State} {R : RootSet}

/-- Past the checks the root finder combines the half-roots of the source's formula. -/
theorem combineRoots_of_latchedRoots (h : s.latchedRoots = .ok R) :
    combineRoots (rp s) (rq s) (uval s.sm) (uval s.sq) = .ok R := by
  have hcheck := (checksPass_iff s).1 (checksPass_of_latchedRoots_ok h)
  rw [State.latchedRoots, Machine.findRoots, hcheck, halfRoot_eq, halfRoot_eq] at h
  exact h

theorem candidatesAre_of_latchedRoots (h : s.latchedRoots = .ok R) : CandidatesAre s R.cand := by
  obtain ⟨R', hR', hcand⟩ := latchedRoots_of_checksPass (checksPass_of_latchedRoots_ok h)
  obtain rfl : R = R' := Except.ok.inj (h.symm.trans hR')
  exact hcand

theorem rp_lt_of_checksPass (h : ChecksPass s) : rp s < uval s.sm := by
  obtain ⟨hp, -⟩ := h
  exact Nat.mod_lt _ (Nat.pos_of_ne_zero hp)

theorem rq_lt_of_checksPass (h : ChecksPass s) : rq s < uval s.sq := by
  obtain ⟨-, hq, -⟩ := h
  exact Nat.mod_lt _ (Nat.pos_of_ne_zero hq)

/-- Every candidate is below `p * q` (R86). -/
theorem candidatesAre_lt {cand : Fin 4 → Nat} (h : CandidatesAre s cand) (k : Fin 4) :
    cand k < uval s.sm * uval s.sq := by
  obtain ⟨⟨h0, -⟩, ⟨h1, -⟩, ⟨h2, -⟩, ⟨h3, -⟩⟩ := h
  fin_cases k
  · exact h0
  · exact h1
  · exact h2
  · exact h3

/-- Every candidate fits its register, because `p * q` does (R86). -/
theorem cand_lt_of_latchedRoots (h : s.latchedRoots = .ok R) (k : Fin 4) : R.cand k < 2 ^ s.width := by
  obtain ⟨-, -, hrange, -⟩ := checksPass_of_latchedRoots_ok h
  exact (candidatesAre_lt (candidatesAre_of_latchedRoots h) k).trans hrange

end LatchedRoots

end Sys2Proof.Machine
end

section
/-! SUPPORT. The completion of ROOTS (spec/42_root_finder.md R87). -/

namespace Sys2Proof.Machine

open Sys2Proof.Claims

theorem vec_cand (R : RootSet) : ![R.cand0, R.cand1, R.cand2, R.cand3] = R.cand := by
  funext k
  fin_cases k <;> rfl

/-- The result registers of `t` hold the candidates and half-roots of `R`, in ROOTS's places (R87). -/
def HoldsRoots (R : RootSet) (t : State) : Prop :=
  t.x .res0 = R.cand0 ∧ t.x .res1 = R.cand1 ∧ t.x .res2 = R.cand2 ∧ t.x .res3 = R.cand3
    ∧ t.x .res4 = R.rp ∧ t.x .res5 = R.rq

/-- A success says as much as any consequence of what it leaves. -/
theorem succeeds_imp {i : Instr} {s : State} {rs : List DataReg} {multi : Bool} {P Q : State → Prop}
    (h : Succeeds i s rs multi P) (hPQ : ∀ t, P t → Q t) : Succeeds i s rs multi Q := by
  obtain ⟨t, ht, hframe, hstatus, hP⟩ := h
  exact ⟨t, ht, hframe, hstatus, hPQ t hP⟩

theorem cmdOutcome_roots {s : State} {R : RootSet} (h : s.latchedRoots = .ok R) :
    cmdOutcome .roots s.width s.operands = .ok
      { res0 := some (.unsigned R.cand0), res1 := some (.unsigned R.cand1), res2 := some (.unsigned R.cand2),
        res3 := some (.unsigned R.cand3), res4 := some (.unsigned R.rp), res5 := some (.unsigned R.rq) } := by
  change cmdRoots s.width s.operands = _
  rw [cmdRoots, show Machine.findRoots s.width s.operands.a s.operands.m s.operands.q = .ok R from h]

/-- ROOTS leaves in its registers what the root finder answers: every value fits. -/
theorem roots_holdsRoots {s : State} {R : RootSet} (h : s.latchedRoots = .ok R) :
    Succeeds .roots s (writes .roots) false (HoldsRoots R) := by
  have hchecks := checksPass_of_latchedRoots_ok h
  obtain ⟨hrp, hrq, -⟩ := combineRoots_ok (combineRoots_of_latchedRoots h)
  have hcand := cand_lt_of_latchedRoots h
  refine succeeds_of_cmdOutcome (i := .roots) nofun (cmdOutcome_roots h) ⟨?_, ?_, ?_, ?_, ?_, ?_⟩
  · exact uval_enc (hcand 0)
  · exact uval_enc (hcand 1)
  · exact uval_enc (hcand 2)
  · exact uval_enc (hcand 3)
  · exact uval_enc (hrp ▸ (rp_lt_of_checksPass hchecks).trans (uval_lt s.sm))
  · exact uval_enc (hrq ▸ (rq_lt_of_checksPass hchecks).trans (uval_lt s.sq))

@[simp] theorem negRoot_zero (p : Nat) : negRoot 0 p = 0 := Nat.mod_self p

/-- Settles O36: the registers hold the root finder's answer, whose parts are the half-roots and four values of `crt`. -/
theorem rootsGivesTheFourCandidates : Obligations.RootsGivesTheFourCandidates := by
  unfold Obligations.RootsGivesTheFourCandidates
  refine ⟨decode_encode .roots, fun s => ⟨checksInOrder_of_rootCommand (.inl rfl) s, fun hchecks => ?_⟩⟩
  obtain ⟨R, hR, hcand⟩ := latchedRoots_of_checksPass hchecks
  obtain ⟨hrp, hrq, hcrt0, hcrt1, hcrt2, hcrt3⟩ := combineRoots_ok (combineRoots_of_latchedRoots hR)
  refine succeeds_imp (roots_holdsRoots hR) fun t ht => ?_
  obtain ⟨h0, h1, h2, h3, h4, h5⟩ := ht
  rw [h0, h1, h2, h3, h4, h5, vec_cand]
  refine ⟨hcand, hrp, hrq, rp_lt_of_checksPass hchecks, rq_lt_of_checksPass hchecks, hcrt0, hcrt1, hcrt2, hcrt3,
    fun hzero => ?_⟩
  rw [hzero] at hcrt0 hcrt1 hcrt2 hcrt3
  rw [negRoot_zero] at hcrt2 hcrt3
  exact ⟨Except.ok.inj (hcrt0.symm.trans hcrt2), Except.ok.inj (hcrt1.symm.trans hcrt3)⟩

end Sys2Proof.Machine
end

section
/-! SUPPORT. The half-roots and the candidates as square roots (spec/42_root_finder.md R85). -/

namespace Sys2Proof.Machine

open Sys2Proof.Claims

/-- The half-root of a square is a root: `y ^ (p + 1)` is `y * y` by Fermat's theorem. -/
theorem halfRoot_mul_self {c p y : Nat} (hp : p.Prime) (hp4 : p % 4 = 3) (hy : y * y ≡ c [MOD p]) :
    halfRoot c p * halfRoot c p ≡ c [MOD p] := by
  have : Fact p.Prime := ⟨hp⟩
  rw [← ZMod.natCast_eq_natCast_iff] at hy ⊢
  have hexp : 2 * ((p + 1) / 4 + (p + 1) / 4) = p + 1 := by omega
  rw [halfRoot_eq, Nat.cast_mul, ZMod.natCast_mod, Nat.cast_pow, ← hy, Nat.cast_mul]
  calc ((y : ZMod p) * y) ^ ((p + 1) / 4) * (y * y) ^ ((p + 1) / 4)
      = y ^ (2 * ((p + 1) / 4 + (p + 1) / 4)) := by rw [← pow_add, ← pow_two, ← pow_mul]
    _ = y * y := by rw [hexp, pow_succ, ZMod.pow_card]

theorem rp_mul_self {s : State} {y : Nat} (hp : (uval s.sm).Prime) (hp4 : uval s.sm % 4 = 3)
    (hy : y * y ≡ uval s.sa [MOD uval s.sm]) : rp s * rp s ≡ uval s.sa [MOD uval s.sm] := by
  rw [rp, ← halfRoot_eq]
  exact halfRoot_mul_self hp hp4 hy

theorem rq_mul_self {s : State} {y : Nat} (hq : (uval s.sq).Prime) (hq4 : uval s.sq % 4 = 3)
    (hy : y * y ≡ uval s.sa [MOD uval s.sq]) : rq s * rq s ≡ uval s.sa [MOD uval s.sq] := by
  rw [rq, ← halfRoot_eq]
  exact halfRoot_mul_self hq hq4 hy

/-- `negRoot r p` represents `-r` (R86). -/
theorem natCast_negRoot {r p : Nat} (h : r ≤ p) : (negRoot r p : ZMod p) = -r := by
  rw [negRoot, ZMod.natCast_mod, Nat.cast_sub h, ZMod.natCast_self, zero_sub]

/-- Both signs of a root are roots. -/
theorem negRoot_mul_self {r p : Nat} (h : r ≤ p) : negRoot r p * negRoot r p ≡ r * r [MOD p] := by
  rw [← ZMod.natCast_eq_natCast_iff, Nat.cast_mul, Nat.cast_mul, natCast_negRoot h, neg_mul_neg]

/-- A combination of a root modulo `p` and one modulo `q` is a root modulo `p * q`. -/
theorem combines_mul_self {v r r' p q c : Nat} (hg : Nat.gcd p q = 1) (h : Combines v r r' p q)
    (hr : r * r ≡ c [MOD p]) (hr' : r' * r' ≡ c [MOD q]) : v * v ≡ c [MOD p * q] := by
  obtain ⟨-, hp, hq⟩ := h
  exact (Nat.modEq_and_modEq_iff_modEq_mul hg).1
    ⟨(Nat.ModEq.mul hp hp).trans hr, (Nat.ModEq.mul hq hq).trans hr'⟩

/-- Where both half-roots square to `c`, so does every candidate (R85). -/
theorem candidatesAre_mul_self {s : State} {cand : Fin 4 → Nat} (hchecks : ChecksPass s) (h : CandidatesAre s cand)
    (hp : rp s * rp s ≡ uval s.sa [MOD uval s.sm]) (hq : rq s * rq s ≡ uval s.sa [MOD uval s.sq]) (k : Fin 4) :
    cand k * cand k % (uval s.sm * uval s.sq) = uval s.sa := by
  have hnp := (negRoot_mul_self (rp_lt_of_checksPass hchecks).le).trans hp
  have hnq := (negRoot_mul_self (rq_lt_of_checksPass hchecks).le).trans hq
  obtain ⟨-, -, -, hlt, hg⟩ := hchecks
  obtain ⟨h0, h1, h2, h3⟩ := h
  refine Nat.mod_eq_of_modEq ?_ hlt
  fin_cases k
  · exact combines_mul_self hg h0 hp hq
  · exact combines_mul_self hg h1 hp hnq
  · exact combines_mul_self hg h2 hnp hq
  · exact combines_mul_self hg h3 hnp hnq

/-- Settles O37: Fermat's theorem for a half-root, the combination of the roots for a candidate. -/
theorem candidatesAreSquareRoots : Obligations.CandidatesAreSquareRoots := by
  unfold Obligations.CandidatesAreSquareRoots
  refine ⟨fun c p hp hp4 ⟨y, hy⟩ => ⟨halfRoot_eq c p, halfRoot_mul_self hp hp4 hy⟩, fun s hchecks hp hq => ?_⟩
  obtain ⟨R, hR, hcand⟩ := latchedRoots_of_checksPass hchecks
  obtain ⟨t, ht, -, hstatus, h0, h1, h2, h3, -⟩ := roots_holdsRoots hR
  have hsquare := candidatesAre_mul_self hchecks hcand hp hq
  refine ⟨t, ht, by rw [hstatus], ?_⟩
  simp only [List.forall_mem_cons, h0, h1, h2, h3]
  exact ⟨hsquare 0, hsquare 1, hsquare 2, hsquare 3, nofun⟩

end Sys2Proof.Machine
end

section
/-! SUPPORT. The range scan and the completion of DECRYPT (spec/42_root_finder.md R88 to R90). -/

namespace Sys2Proof.Machine

open Sys2Proof.Claims

/-- The positions in range, as a set and as the model's list (R88). -/
theorem RootSet.toFinset_hits (R : RootSet) : R.hits.toFinset = inRange R.cand := by
  ext k
  rw [List.mem_toFinset, R.mem_hits, inRange, Finset.mem_filter, and_iff_right (Finset.mem_univ k)]
  rfl

theorem RootSet.length_hits (R : RootSet) : R.hits.length = (inRange R.cand).card := by
  rw [← R.toFinset_hits, List.toFinset_card_of_nodup (R.hits_sorted.imp ne_of_lt)]

theorem RootSet.length_hits_le (R : RootSet) : R.hits.length ≤ 4 := List.length_filter_le _ _

/-- The first position in range heads the list. -/
theorem RootSet.hits_eq_cons {R : RootSet} {k : Fin 4} (hk : k ∈ inRange R.cand)
    (hfirst : ∀ j, j < k → j ∉ inRange R.cand) : ∃ ks, R.hits = k :: ks := by
  have hsorted := R.hits_sorted
  rw [← R.toFinset_hits, List.mem_toFinset] at hk
  simp only [← R.toFinset_hits, List.mem_toFinset] at hfirst
  cases hhits : R.hits with
  | nil => simp [hhits] at hk
  | cons j ks =>
    rw [hhits] at hk hfirst hsorted
    obtain rfl | hmem := List.mem_cons.1 hk
    · exact ⟨ks, rfl⟩
    · exact absurd List.mem_cons_self (hfirst j (List.rel_of_pairwise_cons hsorted hmem))

theorem cand_le_of_hits_eq_cons {R : RootSet} {k : Fin 4} {ks : List (Fin 4)} (h : R.hits = k :: ks) :
    R.cand k ≤ 26 := (R.mem_hits k).1 (h ▸ List.mem_cons_self)

/-- The registers of `t` hold DECRYPT's results for the position `k` in range (R90). -/
def HoldsHit (R : RootSet) (k : Fin 4) (t : State) : Prop :=
  t.x .res0 = R.cand k ∧ t.x .res1 = k.val ∧ t.x .res2 = R.hits.length

section Decrypt
variable {s : State} {R : RootSet}

theorem cmdOutcome_decrypt (h : s.latchedRoots = .ok R) : cmdOutcome .decrypt s.width s.operands = scanRoots R := by
  change cmdDecrypt s.width s.operands = _
  rw [cmdDecrypt, show Machine.findRoots s.width s.operands.a s.operands.m s.operands.q = .ok R from h]

theorem decrypt_fails_of_no_hit (h : s.latchedRoots = .ok R) (hhits : R.hits = []) : Fails .decrypt s 6 :=
  fails_of_cmdOutcome (c := .noValidRoot) (by rw [cmdOutcome_decrypt h, scanRoots, hhits])

/-- DECRYPT leaves the first candidate in range: at a width of R6 its three results fit. -/
theorem decrypt_holdsHit {k : Fin 4} {ks : List (Fin 4)} (hW : widthWellFormed s.width = true)
    (h : s.latchedRoots = .ok R) (hhits : R.hits = k :: ks) :
    Succeeds .decrypt s (writes .decrypt) R.multiHit (HoldsHit R k) := by
  have hpow : 2 ^ 8 ≤ 2 ^ s.width := Nat.pow_le_pow_right two_pos ((widthWellFormed_iff _).1 hW).1
  have hpos : k.val < 2 ^ s.width := by omega
  have hcount : R.hits.length < 2 ^ s.width := by have := R.length_hits_le; omega
  have hok : cmdOutcome .decrypt s.width s.operands = .ok
      { res0 := some (.unsigned (R.cand k)), res1 := some (.unsigned k.val), res2 := some (.unsigned R.hits.length),
        multi := R.multiHit } := by
    rw [cmdOutcome_decrypt h, scanRoots, hhits]
  refine succeeds_of_cmdOutcome (i := .decrypt) nofun hok ⟨?_, ?_, ?_⟩
  · exact uval_enc (cand_lt_of_latchedRoots h k)
  · exact uval_enc hpos
  · exact uval_enc hcount

end Decrypt

/-- Settles O38: the list of hits is the set of positions in range, in ascending order. -/
theorem decryptReturnsTheFirstCandidateInRange : Obligations.DecryptReturnsTheFirstCandidateInRange := by
  unfold Obligations.DecryptReturnsTheFirstCandidateInRange
  refine ⟨decode_encode .decrypt, fun s => ⟨checksInOrder_of_rootCommand (.inr rfl) s, fun hW hchecks => ?_⟩⟩
  obtain ⟨R, hR, hcand⟩ := latchedRoots_of_checksPass hchecks
  refine ⟨R.cand, hcand, fun hempty => ?_, fun k hk hfirst => ?_⟩
  · rw [← R.toFinset_hits, List.toFinset_eq_empty_iff] at hempty
    exact decrypt_fails_of_no_hit hR hempty
  · obtain ⟨ks, hhits⟩ := RootSet.hits_eq_cons hk hfirst
    have hmulti : R.multiHit = decide (2 ≤ ((inRange R.cand).image R.cand).card) :=
      Bool.eq_iff_iff.2 (R.multiHit_iff.trans decide_eq_true_iff.symm)
    rw [← hmulti, ← R.length_hits]
    exact decrypt_holdsHit hW hR hhits

end Sys2Proof.Machine
end

section
/-! SUPPORT. ROOTS and DECRYPT as functions of their three operands (spec/42_root_finder.md R92). -/

namespace Sys2Proof.Machine

open Sys2Proof.Claims

/-- From `s` and from `t` command `i` completes with the same ERR, ERRCODE and MULTI and, without error, with the same
results (R92). -/
def SameOutcome (i : Instr) (s t : State) : Prop :=
  ∃ s' t', exec i s = .next s' ∧ exec i t = .next t' ∧ s'.status.err = t'.status.err
    ∧ s'.status.errcode = t'.status.errcode ∧ s'.status.multi = t'.status.multi
    ∧ (s'.status.err = false → ∀ r ∈ writes i, s'.x r = t'.x r)

theorem sameOutcome_of_fails {i : Instr} {s t : State} {code : BitVec 4} (hs : Fails i s code) (ht : Fails i t code) :
    SameOutcome i s t := by
  obtain ⟨s', hs', -, hss⟩ := hs
  obtain ⟨t', ht', -, hts⟩ := ht
  refine ⟨s', t', hs', ht', ?_⟩
  rw [hss, hts]
  exact ⟨rfl, rfl, rfl, nofun⟩

theorem sameOutcome_of_succeeds {i : Instr} {s t : State} {rs : List DataReg} {multi : Bool} {P : State → Prop}
    (hs : Succeeds i s rs multi P) (ht : Succeeds i t rs multi P)
    (hP : ∀ s' t', P s' → P t' → ∀ r ∈ writes i, s'.x r = t'.x r) : SameOutcome i s t := by
  obtain ⟨s', hs', -, hss, hPs⟩ := hs
  obtain ⟨t', ht', -, hts, hPt⟩ := ht
  refine ⟨s', t', hs', ht', ?_⟩
  rw [hss, hts]
  exact ⟨rfl, rfl, rfl, fun _ => hP s' t' hPs hPt⟩

theorem HoldsRoots.x_eq {R : RootSet} {s t : State} (hs : HoldsRoots R s) (ht : HoldsRoots R t) :
    ∀ r ∈ writes .roots, s.x r = t.x r := by
  obtain ⟨h0, h1, h2, h3, h4, h5⟩ := hs
  obtain ⟨k0, k1, k2, k3, k4, k5⟩ := ht
  simp [writes, h0, h1, h2, h3, h4, h5, k0, k1, k2, k3, k4, k5]

theorem HoldsHit.x_eq {R : RootSet} {k : Fin 4} {s t : State} (hs : HoldsHit R k s) (ht : HoldsHit R k t) :
    ∀ r ∈ writes .decrypt, s.x r = t.x r := by
  obtain ⟨h0, h1, h2⟩ := hs
  obtain ⟨k0, k1, k2⟩ := ht
  simp [writes, h0, h1, h2, k0, k1, k2]

/-- What ROOTS and DECRYPT share depends on the width through the range check alone (R92). -/
theorem latchedRoots_congr {s t : State} (ha : uval s.sa = uval t.sa) (hm : uval s.sm = uval t.sm)
    (hq : uval s.sq = uval t.sq)
    (hrange : 2 ^ s.width ≤ uval s.sm * uval s.sq ↔ 2 ^ t.width ≤ uval t.sm * uval t.sq) :
    s.latchedRoots = t.latchedRoots := by
  rw [← hm, ← hq] at hrange
  rw [State.latchedRoots, State.latchedRoots, Machine.findRoots, Machine.findRoots, ← ha, ← hm, ← hq,
    checkInputs_congr_width _ hrange]

/-- An error of the shared part is the error of the command. -/
theorem fails_of_latchedRoots {i : Instr} {s : State} {e : ErrCode} (hi : i = .roots ∨ i = .decrypt)
    (h : s.latchedRoots = .error e) : Fails i s e.code := by
  have h' : Machine.findRoots s.width s.operands.a s.operands.m s.operands.q = .error e := h
  refine fails_of_cmdOutcome ?_
  obtain rfl | rfl := hi
  · simp [cmdOutcome, cmdRoots, h']
  · simp [cmdOutcome, cmdDecrypt, h']

/-- Settles O39: the shared part answers the same from both states, and its answer decides the outcome. -/
theorem rootCommandsAreDeterministic : Obligations.RootCommandsAreDeterministic := by
  unfold Obligations.RootCommandsAreDeterministic
  intro i hi s t hWs hWt ha hm hq hrange
  change SameOutcome i s t
  have hi : i = .roots ∨ i = .decrypt := by simpa using hi
  have hsame := latchedRoots_congr ha hm hq hrange
  cases hs : s.latchedRoots with
  | error e => exact sameOutcome_of_fails (fails_of_latchedRoots hi hs) (fails_of_latchedRoots hi (hsame ▸ hs))
  | ok R =>
    have ht : t.latchedRoots = .ok R := hsame ▸ hs
    obtain rfl | rfl := hi
    · exact sameOutcome_of_succeeds (roots_holdsRoots hs) (roots_holdsRoots ht) fun _ _ => HoldsRoots.x_eq
    · cases hhits : R.hits with
      | nil => exact sameOutcome_of_fails (decrypt_fails_of_no_hit hs hhits) (decrypt_fails_of_no_hit ht hhits)
      | cons k ks =>
        exact sameOutcome_of_succeeds (decrypt_holdsHit hWs hs hhits) (decrypt_holdsHit hWt ht hhits)
          fun _ _ => HoldsHit.x_eq

end Sys2Proof.Machine
end

section
/-! SUPPORT. The round trip of a symbol through its square (spec/42_root_finder.md R93). -/

namespace Sys2Proof.Machine

open Sys2Proof.Claims

/-- Modulo a prime a square has two roots, `r` and `-r`. -/
theorem modEq_or_modEq_negRoot {v r p : Nat} (hp : p.Prime) (hr : r ≤ p) (h : v * v ≡ r * r [MOD p]) :
    v ≡ r [MOD p] ∨ v ≡ negRoot r p [MOD p] := by
  have : Fact p.Prime := ⟨hp⟩
  rw [← ZMod.natCast_eq_natCast_iff, Nat.cast_mul, Nat.cast_mul, mul_self_eq_mul_self_iff] at h
  rw [← ZMod.natCast_eq_natCast_iff, ← ZMod.natCast_eq_natCast_iff, natCast_negRoot hr]
  exact h

/-- For prime factors every number below `p * q` that is a root modulo both is a candidate (R93). -/
theorem exists_cand_eq {s : State} {cand : Fin 4 → Nat} {v : Nat} (hchecks : ChecksPass s) (h : CandidatesAre s cand)
    (hp : (uval s.sm).Prime) (hq : (uval s.sq).Prime) (hv : v < uval s.sm * uval s.sq)
    (hvp : v * v ≡ rp s * rp s [MOD uval s.sm]) (hvq : v * v ≡ rq s * rq s [MOD uval s.sq]) : ∃ k, cand k = v := by
  have hmodp := modEq_or_modEq_negRoot hp (rp_lt_of_checksPass hchecks).le hvp
  have hmodq := modEq_or_modEq_negRoot hq (rq_lt_of_checksPass hchecks).le hvq
  obtain ⟨-, -, -, -, hg⟩ := hchecks
  obtain ⟨h0, h1, h2, h3⟩ := h
  obtain hvp | hvp := hmodp <;> obtain hvq | hvq := hmodq
  · exact ⟨0, combines_unique hg h0 ⟨hv, hvp, hvq⟩⟩
  · exact ⟨1, combines_unique hg h1 ⟨hv, hvp, hvq⟩⟩
  · exact ⟨2, combines_unique hg h2 ⟨hv, hvp, hvq⟩⟩
  · exact ⟨3, combines_unique hg h3 ⟨hv, hvp, hvq⟩⟩

/-- The hypotheses of R93 on the key and the block pass the checks of R82. -/
theorem checksPass_of_primes {s : State} (hp : (uval s.sm).Prime) (hq : (uval s.sq).Prime)
    (hne : uval s.sm ≠ uval s.sq) (hrange : uval s.sm * uval s.sq < 2 ^ s.width)
    (hc : uval s.sa < uval s.sm * uval s.sq) : ChecksPass s :=
  ⟨hp.ne_zero, hq.ne_zero, hrange, hc, (Nat.coprime_primes hp hq).2 hne⟩

theorem cand_mem_list (R : RootSet) (k : Fin 4) : R.cand k ∈ [R.cand0, R.cand1, R.cand2, R.cand3] := by
  fin_cases k <;> simp [RootSet.cand]

/-- The first candidate in range stands at the head of the hits (R88). -/
theorem find_cand_eq_head_hits (R : RootSet) :
    [R.cand0, R.cand1, R.cand2, R.cand3].find? (· ≤ 26) = R.hits.head?.map R.cand := by
  rw [RootSet.hits, List.head?_filter]
  exact List.find?_map (f := R.cand) (l := [0, 1, 2, 3])

/-- When some candidate is in range, DECRYPT completes without error and returns the first of the four in range (R88). -/
theorem decrypt_of_hit {s : State} {R : RootSet} {j : Fin 4} (hW : widthWellFormed s.width = true)
    (hR : s.latchedRoots = .ok R) (hj : R.cand j ≤ 26) :
    ∃ u k, exec .decrypt s = .next u ∧ u.status.err = false ∧ u.x .res0 = R.cand k ∧ R.cand k ≤ 26
      ∧ [R.cand0, R.cand1, R.cand2, R.cand3].find? (· ≤ 26) = some (R.cand k) := by
  cases hhits : R.hits with
  | nil => exact absurd ((R.mem_hits j).2 hj) (by simp [hhits])
  | cons k ks =>
    obtain ⟨u, hu, -, hstatus, h0, -⟩ := decrypt_holdsHit hW hR hhits
    exact ⟨u, k, hu, by rw [hstatus], h0, cand_le_of_hits_eq_cons hhits, by rw [find_cand_eq_head_hits, hhits]; rfl⟩

/-- The key of the spec's example: the half-roots of 9 are 4 and 3 (R87). -/
theorem latchedRoots_nine {s : State} (hW : widthWellFormed s.width = true) (ha : uval s.sa = 9) (hm : uval s.sm = 7)
    (hq : uval s.sq = 11) : s.latchedRoots = .ok ⟨4, 3, 25, 74, 3, 52⟩ := by
  have hpow : 2 ^ 8 ≤ 2 ^ s.width := Nat.pow_le_pow_right two_pos ((widthWellFormed_iff _).1 hW).1
  have hcheck : checkInputs s.width 9 7 11 = .ok () :=
    checkInputs_ok.2 ⟨by decide, by decide, by omega, by decide, by decide⟩
  rw [State.latchedRoots, ha, hm, hq, Machine.findRoots, hcheck]
  decide

/-- Under `n = 77` the hits of 9 are 25 and 3, in this order, and DECRYPT returns 25. -/
theorem decrypt_nine {s : State} (hW : widthWellFormed s.width = true) (ha : uval s.sa = 9) (hm : uval s.sm = 7)
    (hq : uval s.sq = 11) : ∃ u, exec .decrypt s = .next u ∧ u.status.err = false ∧ u.x .res0 = 25 := by
  have hhits : RootSet.hits ⟨4, 3, 25, 74, 3, 52⟩ = [0, 2] := by decide
  obtain ⟨u, hu, -, hstatus, h0, -⟩ := decrypt_holdsHit hW (latchedRoots_nine hW ha hm hq) hhits
  exact ⟨u, hu, by rw [hstatus], h0⟩

/-- Settles O40: the symbol is a root modulo both primes, so it is a candidate, and DECRYPT returns the first in range. -/
theorem roundTripUnderAUniqueRoot : Obligations.RoundTripUnderAUniqueRoot := by
  unfold Obligations.RoundTripUnderAUniqueRoot
  refine ⟨fun s symbol hW hp hq hne hp4 hq4 h26 hrange hsymbol hsa => ?_, rfl, rfl, fun s => decrypt_nine⟩
  have hlt : uval s.sa < uval s.sm * uval s.sq := hsa ▸ Nat.mod_lt _ (by omega)
  have hchecks : ChecksPass s := checksPass_of_primes hp hq hne hrange hlt
  have hsquare : symbol * symbol ≡ uval s.sa [MOD uval s.sm * uval s.sq] := hsa ▸ (Nat.mod_modEq _ _).symm
  have hsquarep := hsquare.of_mul_right (uval s.sq)
  have hsquareq := hsquare.of_mul_left (uval s.sm)
  have hrootp : rp s * rp s ≡ uval s.sa [MOD uval s.sm] := rp_mul_self hp hp4 hsquarep
  have hrootq : rq s * rq s ≡ uval s.sa [MOD uval s.sq] := rq_mul_self hq hq4 hsquareq
  obtain ⟨R, hR, hcand⟩ := latchedRoots_of_checksPass hchecks
  obtain ⟨j, hj⟩ := exists_cand_eq hchecks hcand hp hq (by omega) (hsquarep.trans hrootp.symm)
    (hsquareq.trans hrootq.symm)
  obtain ⟨t, ht, -, hstatus, h0, h1, h2, h3, -⟩ := roots_holdsRoots hR
  obtain ⟨u, k, hu, huerr, hres, hk26, hfind⟩ := decrypt_of_hit hW hR (hj.trans_le hsymbol)
  refine ⟨t, u, ht, by rw [hstatus], hu, huerr, ?_, ?_, fun hunique => ?_⟩
  · rw [h0, h1, h2, h3, ← hj]
    exact cand_mem_list R j
  · rw [h0, h1, h2, h3, hfind, hres, Option.some_inj]
  · rw [hres]
    exact hunique _ hk26 (candidatesAre_mul_self hchecks hcand hrootp hrootq k)

end Sys2Proof.Machine
end

section
/-! SUPPORT. Which error codes apply to each command and which one its function answers (spec/60_exceptions.md R96 to
R102), that an error is precise (R104), and that it does not block the unit (R105). -/

namespace Sys2Proof.Machine

open Sys2Proof.Claims

/-- Only the codes 2 to 6 apply to a command that completes. -/
theorem two_le_and_le_six_of_applies {i : Instr} {s : State} {code : Nat} (h : Applies i s code) :
    2 ≤ code ∧ code ≤ 6 := by
  unfold Applies at h
  split at h
  case h_6 => exact h.elim
  all_goals decide

section Applies
variable (s : State) (code : Nat)

theorem applies_modpow_iff : Applies .modpow s code ↔ code = 2 ∧ uval s.sm = 0 := by
  unfold Applies
  split <;> simp_all

theorem applies_sqr_iff : Applies .sqr s code ↔ code = 2 ∧ uval s.sm = 0 := by
  unfold Applies
  split <;> simp_all

theorem not_applies_egcd : ¬Applies .egcd s code := by
  unfold Applies
  split <;> simp

theorem applies_modinv_iff : Applies .modinv s code ↔
    (code = 2 ∧ uval s.sm = 0) ∨ (code = 5 ∧ Nat.gcd (uval s.sa) (uval s.sm) ≠ 1) := by
  unfold Applies
  split <;> simp_all

theorem applies_crt_iff : Applies .crt s code ↔
    (code = 2 ∧ (uval s.sm = 0 ∨ uval s.sq = 0))
    ∨ (code = 3 ∧ uval s.sm ≠ 0 ∧ uval s.sq ≠ 0 ∧ 2 ^ s.width ≤ uval s.sm * uval s.sq)
    ∨ (code = 5 ∧ Nat.gcd (uval s.sm) (uval s.sq) ≠ 1) := by
  unfold Applies
  split <;> simp_all

theorem applies_roots_iff : Applies .roots s code ↔
    (code = 2 ∧ (uval s.sm = 0 ∨ uval s.sq = 0))
    ∨ (code = 3 ∧ uval s.sm ≠ 0 ∧ uval s.sq ≠ 0 ∧ 2 ^ s.width ≤ uval s.sm * uval s.sq)
    ∨ (code = 4 ∧ uval s.sm * uval s.sq ≤ uval s.sa)
    ∨ (code = 5 ∧ Nat.gcd (uval s.sm) (uval s.sq) ≠ 1) := by
  unfold Applies
  split <;> simp_all

/-- The codes that apply to DECRYPT are those of ROOTS and NO_VALID_ROOT (R100). -/
theorem applies_decrypt_iff : Applies .decrypt s code ↔ Applies .roots s code
    ∨ (code = 6 ∧ ChecksPass s ∧ ∀ cand, CandidatesAre s cand → ∀ k, 26 < cand k) := by
  unfold Applies
  split <;> simp_all

end Applies

/-- `o` reports the lowest code that applies to command `i`, and no error when none applies (R102). -/
def ReportsLowest (i : Instr) (s : State) : CmdOutcome → Prop
  | .ok _ => ∀ code, ¬Applies i s code
  | .error c => Applies i s c.code.toNat ∧ ∀ code, code < c.code.toNat → ¬Applies i s code

section Reports
variable {i : Instr} {s : State}

theorem reportsLowest_error {c : ErrCode} {n : Nat} (hn : c.code.toNat = n) (h : Applies i s n)
    (hbelow : ∀ code, code < n → ¬Applies i s code) : ReportsLowest i s (.error c) := by
  subst hn
  exact ⟨h, hbelow⟩

/-- No code below MODULUS_ZERO applies to a command that completes. -/
theorem reportsLowest_modulusZero (h : Applies i s 2) : ReportsLowest i s (.error .modulusZero) :=
  reportsLowest_error rfl h fun _ hlt happ => Nat.not_le.2 hlt (two_le_and_le_six_of_applies happ).1

/-- Where code `n` alone can apply, and does so exactly under `P`, an outcome that is this error under `P` and no error
otherwise reports the lowest code. -/
theorem reportsLowest_of_applies_iff {o : CmdOutcome} {n : Nat} {P : Prop} (c : ErrCode) (hn : c.code.toNat = n)
    (happ : ∀ code, Applies i s code ↔ code = n ∧ P) (herror : P → o = .error c) (hok : ¬P → ∃ r, o = .ok r) :
    ReportsLowest i s o := by
  by_cases hP : P
  · rw [herror hP]
    exact reportsLowest_error hn ((happ n).2 ⟨rfl, hP⟩) fun code hlt h => hlt.ne ((happ code).1 h).1
  · obtain ⟨r, hr⟩ := hok hP
    rw [hr]
    exact fun code h => hP ((happ code).1 h).2

end Reports

section Commands
variable (s : State)

theorem cmdModpow_reportsLowest : ReportsLowest .modpow s (cmdModpow s.operands) :=
  reportsLowest_of_applies_iff .modulusZero rfl (applies_modpow_iff s) (cmdModpow_zero (o := s.operands))
    fun hm => ⟨_, cmdModpow_ok hm⟩

theorem cmdSqr_reportsLowest : ReportsLowest .sqr s (cmdSqr s.operands) :=
  reportsLowest_of_applies_iff .modulusZero rfl (applies_sqr_iff s) (cmdSqr_zero (o := s.operands))
    fun hm => ⟨_, cmdSqr_ok hm⟩

/-- EGCD is total (40_modular_primitives.md R77). -/
theorem cmdEgcd_reportsLowest : ReportsLowest .egcd s (cmdEgcd s.operands) := not_applies_egcd s

theorem cmdModinv_reportsLowest : ReportsLowest .modinv s (cmdModinv s.operands) := by
  by_cases hm : uval s.sm = 0
  · rw [cmdModinv_zero hm]
    exact reportsLowest_modulusZero ((applies_modinv_iff s 2).2 (.inl ⟨rfl, hm⟩))
  · have hpos : 0 < uval s.sm := Nat.pos_of_ne_zero hm
    have happ (code : Nat) : Applies .modinv s code ↔ code = 5 ∧ Nat.gcd (uval s.sa) (uval s.sm) ≠ 1 := by
      simp [applies_modinv_iff, hm]
    refine reportsLowest_of_applies_iff .noInverse rfl happ (fun hg => ?_) fun hg => ?_
    · exact cmdModinv_error hm (inv_of_not_coprime hpos hg)
    · obtain ⟨r, hinv, -⟩ := inv_of_coprime hpos (not_not.1 hg)
      exact ⟨_, cmdModinv_ok hm hinv⟩

theorem cmdCrt_reportsLowest : ReportsLowest .crt s (cmdCrt s.width s.operands) := by
  by_cases h0 : uval s.sm = 0 ∨ uval s.sq = 0
  · rw [cmdCrt_zero h0]
    exact reportsLowest_modulusZero ((applies_crt_iff s 2).2 (.inl ⟨rfl, h0⟩))
  obtain ⟨hp, hq⟩ := not_or.1 h0
  by_cases hrange : 2 ^ s.width ≤ uval s.sm * uval s.sq
  · rw [cmdCrt_range (o := s.operands) h0 hrange]
    refine reportsLowest_error (n := 3) rfl ((applies_crt_iff s 3).2 (.inr (.inl ⟨rfl, hp, hq, hrange⟩))) ?_
    intro code hlt
    rw [applies_crt_iff]
    omega
  · have happ (code : Nat) : Applies .crt s code ↔ code = 5 ∧ Nat.gcd (uval s.sm) (uval s.sq) ≠ 1 := by
      simp [applies_crt_iff, hp, hq, hrange]
    refine reportsLowest_of_applies_iff .noInverse rfl happ (fun hg => ?_) fun hg => ?_
    · exact cmdCrt_coprime h0 hrange hg
    · obtain ⟨x, hx, -⟩ :=
        crt_of_coprime (uval s.sa) (uval s.sb) (Nat.pos_of_ne_zero hp) (Nat.pos_of_ne_zero hq) (not_not.1 hg)
      exact ⟨_, cmdCrt_ok (o := s.operands) h0 hrange (not_not.1 hg) hx⟩

end Commands

section RootCommands
variable {s : State}

theorem not_applies_roots_of_checksPass (h : ChecksPass s) (code : Nat) : ¬Applies .roots s code := by
  obtain ⟨hp, hq, hrange, hc, hg⟩ := h
  simp [applies_roots_iff, hp, hq, hrange, hc, hg]

/-- The first check of 42_root_finder.md R82 that fails has the lowest code that applies to ROOTS. -/
theorem checkInputs_reportsLowest (h : ¬ChecksPass s) :
    ∃ e, checkInputs s.width (uval s.sa) (uval s.sm) (uval s.sq) = .error e ∧ ReportsLowest .roots s (.error e) := by
  have happ := applies_roots_iff s
  by_cases h0 : uval s.sm = 0 ∨ uval s.sq = 0
  · exact ⟨_, checkInputs_zero _ _ h0, reportsLowest_modulusZero ((happ 2).2 (.inl ⟨rfl, h0⟩))⟩
  obtain ⟨hp, hq⟩ := not_or.1 h0
  obtain hrange | hrange := Nat.lt_or_ge (uval s.sm * uval s.sq) (2 ^ s.width)
  case inr =>
    refine ⟨_, checkInputs_range _ h0 hrange, reportsLowest_error (n := 3) rfl ?_ fun code hlt => ?_⟩
    · exact (happ 3).2 (.inr (.inl ⟨rfl, hp, hq, hrange⟩))
    · rw [happ]
      omega
  obtain hc | hc := Nat.lt_or_ge (uval s.sa) (uval s.sm * uval s.sq)
  case inr =>
    refine ⟨_, checkInputs_ciphertext h0 hrange hc, reportsLowest_error (n := 4) rfl ?_ fun code hlt => ?_⟩
    · exact (happ 4).2 (.inr (.inr (.inl ⟨rfl, hc⟩)))
    · rw [happ]
      omega
  have hg : Nat.gcd (uval s.sm) (uval s.sq) ≠ 1 := fun hg => h ⟨hp, hq, hrange, hc, hg⟩
  refine ⟨_, checkInputs_coprime h0 hrange hc hg, reportsLowest_error (n := 5) rfl ?_ fun code hlt => ?_⟩
  · exact (happ 5).2 (.inr (.inr (.inr ⟨rfl, hg⟩)))
  · rw [happ]
    omega

/-- The candidates that the operands determine are all out of range exactly when the scan has no hit (R88). -/
theorem forall_cand_gt_iff {R : RootSet} (hchecks : ChecksPass s) (hR : CandidatesAre s R.cand) :
    (∀ cand, CandidatesAre s cand → ∀ k, 26 < cand k) ↔ R.hits = [] := by
  obtain ⟨-, -, -, -, hg⟩ := hchecks
  rw [List.eq_nil_iff_forall_not_mem]
  simp only [R.mem_hits, Nat.not_le]
  constructor
  · exact fun h => h R.cand hR
  · intro h cand hcand
    rwa [candidatesAre_unique hg hcand hR]

variable (s)

theorem cmdOutcome_roots_reportsLowest : ReportsLowest .roots s (cmdOutcome .roots s.width s.operands) := by
  by_cases hchecks : ChecksPass s
  · obtain ⟨R, hR, -⟩ := latchedRoots_of_checksPass hchecks
    rw [cmdOutcome_roots hR]
    exact not_applies_roots_of_checksPass hchecks
  · obtain ⟨e, he, hlowest⟩ := checkInputs_reportsLowest hchecks
    rwa [rootCommand_error (o := s.operands) (.inl rfl) he]

/-- Where the checks fail, the codes that apply to DECRYPT are those of ROOTS; where they pass, NO_VALID_ROOT alone can
apply, and does when no candidate is in range. -/
theorem cmdOutcome_decrypt_reportsLowest : ReportsLowest .decrypt s (cmdOutcome .decrypt s.width s.operands) := by
  by_cases hchecks : ChecksPass s
  · obtain ⟨R, hR, hcand⟩ := latchedRoots_of_checksPass hchecks
    have happ (code : Nat) : Applies .decrypt s code ↔ code = 6 ∧ R.hits = [] := by
      simp [applies_decrypt_iff, not_applies_roots_of_checksPass, hchecks, forall_cand_gt_iff hchecks hcand]
    rw [cmdOutcome_decrypt hR]
    refine reportsLowest_of_applies_iff .noValidRoot rfl happ (fun hnone => ?_) fun hsome => ?_
    · rw [scanRoots, hnone]
    · obtain ⟨k, ks, hhits⟩ := List.exists_cons_of_ne_nil hsome
      rw [scanRoots, hhits]
      exact ⟨_, rfl⟩
  · have happ (code : Nat) : Applies .decrypt s code ↔ Applies .roots s code := by
      simp [applies_decrypt_iff, hchecks]
    obtain ⟨e, he, hlowest⟩ := checkInputs_reportsLowest hchecks
    rw [rootCommand_error (o := s.operands) (.inr rfl) he]
    simpa only [ReportsLowest, happ] using hlowest

end RootCommands

/-- Every command's function reports the lowest code that applies (R102). -/
theorem cmdOutcome_reportsLowest (i : Instr) (s : State) : ReportsLowest i s (cmdOutcome i s.width s.operands) := by
  cases i with
  | modpow => exact cmdModpow_reportsLowest s
  | sqr => exact cmdSqr_reportsLowest s
  | egcd => exact cmdEgcd_reportsLowest s
  | modinv => exact cmdModinv_reportsLowest s
  | crt => exact cmdCrt_reportsLowest s
  | roots => exact cmdOutcome_roots_reportsLowest s
  | decrypt => exact cmdOutcome_decrypt_reportsLowest s

/-- Settles O41: STATUS after the completion says what the command's function answered. -/
theorem theLowestErrorThatAppliesIsReported : Obligations.TheLowestErrorThatAppliesIsReported := by
  unfold Obligations.TheLowestErrorThatAppliesIsReported
  intro i s t h
  have hlowest := cmdOutcome_reportsLowest i s
  obtain ⟨r, hr, rfl⟩ | ⟨c, hc, rfl⟩ := exec_cases h
  · rw [hr] at hlowest
    exact ⟨fun _ => ⟨rfl, hlowest⟩, nofun⟩
  · rw [hc] at hlowest
    exact ⟨nofun, fun _ => hlowest⟩

/-- Settles O42: the error branch writes STATUS alone, and its code is one that applies. -/
theorem errorsArePrecise : Obligations.ErrorsArePrecise := by
  unfold Obligations.ErrorsArePrecise
  intro i s t h herr
  obtain ⟨happ, -⟩ := (theLowestErrorThatAppliesIsReported i s t h).2 herr
  obtain ⟨r, -, rfl⟩ | ⟨c, -, rfl⟩ := exec_cases h
  · cases herr
  · exact ⟨frameExcept_of_status s _ [], rfl, two_le_and_le_six_of_applies happ⟩

/-- Settles O44: the completion has lowered BUSY, so the next legal word is accepted (10_state.md R33). -/
theorem anErrorDoesNotBlockTheUnit : Obligations.AnErrorDoesNotBlockTheUnit := by
  unfold Obligations.AnErrorDoesNotBlockTheUnit
  intro i s t h _
  have hidle : t.status.busy = false := by rw [exec_next h, State.complete_busy]
  refine ⟨fun w => acceptTakesTheSnapshot t w hidle, fun v hv => ⟨_, t.hostWrite_status v, ?_⟩⟩
  simp [Status.clear, hv]

end Sys2Proof.Machine
end

section
/-! SUPPORT. The operands of reset (spec/70_reset_and_hazards.md R118) and the reset of a running unit (R115, R116). -/

namespace Sys2Proof.Machine

open Sys2Proof.Claims

/-- A zero modulus in SM is the first check of every command but EGCD (60_exceptions.md R102). -/
theorem fails_of_zeroModulus {i : Instr} {s : State} (hi : i ≠ .egcd) (hm : uval s.sm = 0) : Fails i s 2 := by
  cases i with
  | modpow => exact fails_of_cmdOutcome (c := .modulusZero) (cmdModpow_zero hm)
  | sqr => exact fails_of_cmdOutcome (c := .modulusZero) (cmdSqr_zero hm)
  | egcd => exact absurd rfl hi
  | modinv => exact fails_of_cmdOutcome (c := .modulusZero) (cmdModinv_zero hm)
  | crt => exact fails_of_cmdOutcome (c := .modulusZero) (cmdCrt_zero (.inl hm))
  | roots => exact fails_of_checkInputs (e := .modulusZero) (.inl rfl) (checkInputs_zero _ _ (.inl hm))
  | decrypt => exact fails_of_checkInputs (e := .modulusZero) (.inr rfl) (checkInputs_zero _ _ (.inl hm))

/-- EGCD of two zeros completes with the triple `(0, 1, 0)` of R71's terminal case. -/
theorem egcd_succeeds_of_zeros {s : State} (hW : widthWellFormed s.width = true) (ha : uval s.sa = 0)
    (hb : uval s.sb = 0) : Succeeds .egcd s [.res0, .res1, .res2] false fun t =>
      t.x .res0 = 0 ∧ sval t.res1 = 1 ∧ sval t.res2 = 0 := by
  obtain ⟨-, htriple, -⟩ := egcdGivesTheTriple
  refine succeeds_imp (htriple s hW) fun t ht => ?_
  rw [ha, hb, egcd_zero_right] at ht
  simpa using ht

/-- Settles O25: the accept after reset takes a snapshot of zeros. -/
theorem resetOperandsGiveModulusZero : Obligations.ResetOperandsGiveModulusZero := by
  unfold Obligations.ResetOperandsGiveModulusZero
  intro w hW i
  have hzero : ∀ r, (State.resetAt w).x r = 0 := (resetLeavesTheResetValues w).1
  constructor
  · intro hi
    exact fails_of_zeroModulus hi (hzero .opm)
  · rintro rfl
    exact egcd_succeeds_of_zeros hW (hzero .opa) (hzero .opb)

/-- An Engine turn of an idle unit changes nothing but the turns to come (10_state.md R36). -/
theorem step_engine_of_idle {s : State} (hturn : s.nextTurn = .engine) (hb : s.status.busy = false) :
    step s = .next s.popTurn := by
  obtain ⟨-, hidle, -⟩ := stepRunsTheLatchedCommand s
  exact hidle hturn hb

/-- A step whose turn is a reset leaves the reset state of the unit's width, whatever command is running (R115). -/
theorem step_reset {s : State} {ts : List Turn} (h : s.turns = .reset :: ts) :
    step s = .next { State.resetAt s.width with turns := ts, replies := s.replies } := by
  rw [step_eq, State.nextTurn, State.popTurn, h]
  rfl

/-- Settles O24: reset lowers BUSY, so the Engine has nothing to complete, and DONE, which every completion sets. -/
theorem resetAbandonsTheRunningCommand : Obligations.ResetAbandonsTheRunningCommand := by
  unfold Obligations.ResetAbandonsTheRunningCommand
  refine ⟨fun s ts h => ?_, fun i s t h => ?_⟩
  · exact ⟨_, step_reset h, rfl, rfl, rfl, rfl, fun hturn => step_engine_of_idle hturn rfl⟩
  · rw [exec_next h]
    exact ⟨State.complete_busy .., State.complete_done ..⟩

end Sys2Proof.Machine
end

section
/-! SUPPORT. Every run of a legal Host ends (spec/70_reset_and_hazards.md R126, R127): each step takes one turn, and with none
left the Engine completes what is owed. -/

namespace Sys2Proof.Safety

open Sys2Proof.Machine

theorem hostLegal_iff (s : State) : hostLegal s = true ↔ ∀ turn ∈ s.turns, turnFits s.width turn = true :=
  List.all_eq_true

/-- The next turn of a legal Host fits; the Engine's, when no turn is left, fits always. -/
theorem turnFits_nextTurn {s : State} (h : hostLegal s = true) : turnFits s.width s.nextTurn = true := by
  rw [hostLegal_iff] at h
  rw [State.nextTurn]
  cases hts : s.turns with
  | nil => rfl
  | cons turn ts => exact h turn (hts ▸ List.mem_cons_self)

/-- A step leaves the Host as legal as it was, since it keeps the width and makes no turn. -/
theorem hostLegal_of_step {s t : State} (h : step s = .next t) (hhost : hostLegal s = true) : hostLegal t = true := by
  obtain ⟨hwidth, hturns⟩ := step_keeps h
  rw [hostLegal_iff] at hhost ⊢
  rw [hwidth, hturns]
  exact fun turn hmem => hhost turn (List.mem_of_mem_tail hmem)

/-- A legal unit answers every step of a legal Host. -/
theorem step_answers {s : State} (hs : stateLegal s = true) (hhost : hostLegal s = true) : ∃ t, step s = .next t := by
  obtain ⟨-, -, hanswers⟩ := noStepFaultsUnderTheInvariant s hs
  exact hanswers (turnFits_nextTurn hhost)

/-- The Engine's turn leaves the unit idle (10_state.md R36). -/
theorem busy_of_step_engine {s t : State} (hturn : s.nextTurn = .engine) (h : step s = .next t) :
    t.status.busy = false := by
  have hbusy := busyIsWrittenByAcceptCompletionAndReset s t h
  rwa [hturn] at hbusy

/-- With no turn left and BUSY = 0 a run has ended (R127). -/
theorem ended_of_no_turns {s : State} (hturns : s.turns = []) (hb : s.status.busy = false) : ended s = true :=
  (ended_iff s).2 ⟨by simp [hturns], hb⟩

/-- A run keeps the invariant. -/
theorem stateLegal_of_run {n : Nat} : ∀ {s t : State}, stateLegal s = true → Host.Core.run core n s = .next t →
    stateLegal t = true := by
  induction n with
  | zero =>
    intro s t hs h
    cases h
    exact hs
  | succ n ih =>
    intro s t hs h
    obtain ⟨u, hstep, hrun⟩ := run_succ_next h
    exact ih (everyStepKeepsTheInvariant s u hs hstep) hrun

/-- A run of one step more than there are turns takes every turn and then the Engine's, which leaves the unit idle. -/
theorem run_takes_every_turn {ts : List Turn} : ∀ {s : State}, s.turns = ts → stateLegal s = true → hostLegal s = true →
    ∃ t, Host.Core.run core (ts.length + 1) s = .next t ∧ t.turns = [] ∧ t.status.busy = false := by
  induction ts with
  | nil =>
    intro s hts hs hhost
    obtain ⟨t, hstep⟩ := step_answers hs hhost
    have hengine : s.nextTurn = .engine := by rw [State.nextTurn, hts, List.headD_nil]
    refine ⟨t, run_next hstep, ?_, busy_of_step_engine hengine hstep⟩
    rw [(step_keeps hstep).2, hts, List.tail_nil]
  | cons turn ts ih =>
    intro s hts hs hhost
    obtain ⟨u, hstep⟩ := step_answers hs hhost
    have hturns : u.turns = ts := by rw [(step_keeps hstep).2, hts, List.tail_cons]
    obtain ⟨t, hrun, ht⟩ :=
      ih hturns (everyStepKeepsTheInvariant s u hs hstep) (hostLegal_of_step hstep hhost)
    exact ⟨t, (run_next hstep).trans hrun, ht⟩

theorem endsAt_zero {s : State} (h : ended s = true) : EndsAt 0 s s :=
  ⟨run_zero s, h, fun _ hj => absurd hj (Nat.not_lt_zero _)⟩

/-- A run that has not ended ends one step after the run of its successor. -/
theorem endsAt_succ {k : Nat} {s u t : State} (hs : ended s = false) (hstep : step s = .next u) (h : EndsAt k u t) :
    EndsAt (k + 1) s t := by
  obtain ⟨hrun, hended, hbefore⟩ := h
  refine ⟨(run_next hstep).trans hrun, hended, fun j hj => ?_⟩
  cases j with
  | zero => exact ⟨s, run_zero s, hs⟩
  | succ j =>
    obtain ⟨v, hv, hnot⟩ := hbefore j (Nat.lt_of_succ_lt_succ hj)
    exact ⟨v, (run_next hstep).trans hv, hnot⟩

/-- A run that reaches an ended state has a first one, no later. -/
theorem exists_endsAt {n : Nat} : ∀ {s t : State}, Host.Core.run core n s = .next t → ended t = true →
    ∃ k u, k ≤ n ∧ EndsAt k s u := by
  induction n with
  | zero =>
    intro s t h hended
    cases h
    exact ⟨0, s, Nat.le_refl 0, endsAt_zero hended⟩
  | succ n ih =>
    intro s t h hended
    cases hs : ended s with
    | true => exact ⟨0, s, Nat.zero_le _, endsAt_zero hs⟩
    | false =>
      obtain ⟨v, hstep, hrun⟩ := run_succ_next h
      obtain ⟨k, u, hk, hu⟩ := ih hrun hended
      exact ⟨k + 1, u, Nat.succ_le_succ hk, endsAt_succ hs hstep hu⟩

/-- Settles O53: the run that takes every turn reaches an ended state, so there is a first one. -/
theorem everyRunEnds : Obligations.EveryRunEnds := by
  unfold Obligations.EveryRunEnds
  intro s hs hhost
  obtain ⟨t, hrun, hturns, hb⟩ := run_takes_every_turn rfl hs hhost
  have hended := ended_of_no_turns hturns hb
  obtain ⟨k, u, hk, hu⟩ := exists_endsAt hrun hended
  exact ⟨⟨k, u, hk, hu, stateLegal_of_run hs hu.1⟩, t, hrun, hturns, hb, hended, stateLegal_of_run hs hrun⟩

end Sys2Proof.Safety
end
